-- ==== Sys2Proof/Word.lean ====
section
/-! DEFINITION. The word types of the block and the grid type its resampling parameter works on (spec 00_scope.md R7, R14). -/

namespace Sys2Proof

/-- A register, a command word or a host address: 32 bits (R7, R21). -/
abbrev Word := BitVec 32

/-- One byte of host memory (R60). -/
abbrev Byte := BitVec 8

/-- One cell of a sample buffer: an unsigned 16-bit sample (R7, R35). -/
abbrev Sample := BitVec 16

/-- `Plane(h, w)` of R14: a grid of samples, row by row, the first row first. -/
structure Plane where
  rows  : Nat
  cols  : Nat
  cells : List Sample
  deriving DecidableEq, Repr

end Sys2Proof
end

