-- ==== Sys2Proof/Syntax.lean ====
section
/-! DEFINITION. The command set: one constructor for each row of spec/opcode_table.json (spec 30_encoding.md R95). -/

namespace Sys2Proof

/-- The B field of WIDEN and NARROW, and BUF_SEL: which sample buffer (R93, R34). -/
inductive BufSel where
  | inBuf
  | outBuf
  deriving DecidableEq, Repr

/-- The commands of R95. C and STEP are part of the mnemonic; B is the operand of WIDEN and NARROW. -/
inductive Instr where
  | nop
  | load
  | loadW
  | save
  | saveN
  | widen (b : BufSel)
  | narrow (b : BufSel)
  | copy
  | zoom
  | zin
  | zout
  | panl
  | panr
  | panu
  | pand
  deriving DecidableEq, Repr

end Sys2Proof
end

