-- ==== Sys2Proof/Machine/State.lean ====
section
/-! DEFINITION. The state of the block, of the host memory its streams lie in, and of the host that drives it (spec 10_state.md R20),
and the machine after reset. -/

namespace Sys2Proof.Machine

/-- STATUS.ERR_CODE (R200). The codes 9 to 15 are never produced, so they have no constructor. -/
inductive ErrCode where
  | ok
  | openError
  | shortRead
  | writeError
  | invalidRoi
  | unknownLayout
  | unknownCmd
  | configError
  | noData
  deriving DecidableEq, Repr

/-- The fields of STATUS (R28). Its reserved bits read as zero and ignore writes, so they are not stored. -/
structure Status where
  busy      : Bool
  inValid   : Bool
  outValid  : Bool
  errSticky : Bool
  overrun   : Bool
  errCode   : ErrCode
  deriving DecidableEq, Repr

/-- A latched layout code, IN_LAYOUT or OUT_LAYOUT (R27): 0 is 420p, 1 is 420sp (R19). -/
inductive Layout where
  | planar
  | semiPlanar
  deriving DecidableEq, Repr

/-- The latched geometry of a sample buffer: luma height, luma width and layout (R27). -/
structure Geometry where
  h      : Word
  w      : Word
  layout : Layout
  deriving DecidableEq, Repr

/-- Host memory: the bytes that have been written, addresses strictly rising (R60). -/
abbrev Memory := List Host.Cell

/-- The width of a host access to the register window: R22's 32 bits, and the other widths that it refuses. R22 gives no list of those; 8 and
16 bits, and no wider one, are the model's choice (DESIGN CHOICE, safe: notes/assumptions 21). -/
inductive AccessWidth where
  | byte
  | half
  | word
  deriving DecidableEq, Repr

/-- One indivisible action of the host or of the platform (R6, R22, R230). An offset is a byte offset in the 0x80-byte register window;
host memory is reached a byte at a time. -/
inductive HostAction where
  | writeReg (width : AccessWidth) (offset : BitVec 7) (value : Word)
  | readReg (width : AccessWidth) (offset : BitVec 7)
  | writeMem (addr : Word) (value : Byte)
  | readMem (addr : Word)
  | reset
  deriving DecidableEq, Repr

/-- Who moves next. The list of turns in the state is the interleaving of the two agents of R6, which the spec leaves open: DESIGN CHOICE,
safe (notes/assumptions 3). -/
inductive Turn where
  | block
  | host (a : HostAction)
  deriving DecidableEq, Repr

/-- What a host read returned. -/
inductive HostRead where
  | register (v : Word)
  | memory (b : Byte)
  deriving DecidableEq, Repr

/-- The whole state: the registers of R23, the sample buffers of R35, PENDING of R37, host memory of R60, and at the end four fields of
the model's own (notes/assumptions 3, 4 and 5). -/
structure State where
  /-- STATUS (R28). -/
  status      : Status
  /-- CTRL[0] (R31). -/
  srcEn       : Bool
  /-- CTRL[1] (R31). -/
  dstEn       : Bool
  /-- LAYOUT, held as written (R26). -/
  layout      : Word
  /-- FRAME_H (R25). -/
  frameH      : Word
  /-- FRAME_W (R25). -/
  frameW      : Word
  /-- ROI_X (R24). -/
  roiX        : Word
  /-- ROI_Y (R24). -/
  roiY        : Word
  /-- ROI_W (R24). -/
  roiW        : Word
  /-- ROI_H (R24). -/
  roiH        : Word
  /-- SRC_BASE (R32). -/
  srcBase     : Word
  /-- SRC_LEN (R32). -/
  srcLen      : Word
  /-- DST_BASE (R32). -/
  dstBase     : Word
  /-- DST_CAP (R32). -/
  dstCap      : Word
  /-- ERR_SEG[1:0] (R33). -/
  errSeg      : BitVec 2
  /-- ERR_EXPECTED (R33). -/
  errExpected : Word
  /-- ERR_ACTUAL (R33). -/
  errActual   : Word
  /-- IN_H, IN_W, IN_LAYOUT (R27). -/
  inGeom      : Geometry
  /-- OUT_H, OUT_W, OUT_LAYOUT (R27). -/
  outGeom     : Geometry
  /-- BUF_SEL[0] (R34). -/
  bufSel      : BufSel
  /-- BUF_IDX (R34). -/
  bufIdx      : Word
  /-- IN: the cells from index 0 on that hold a value; a cell past the end of the list holds none (R35, R36). -/
  inCells     : List Sample
  /-- OUT, in the same way (R35, R36). -/
  outCells    : List Sample
  /-- PENDING (R37). -/
  pending     : Word
  /-- Host memory (R60). -/
  mem         : Memory
  /-- The model's own: the turns still to come; when none is left the block moves. -/
  turns       : List Turn
  /-- The model's own: what the last host read returned, if there was one. -/
  lastRead    : Option HostRead
  /-- The model's own: the addresses the host has written while BUSY = 1, each with the byte that it replaced (R236, R237). -/
  races       : List Host.Cell
  /-- The model's own: how many unspecified values have been drawn. -/
  draws       : Nat
  deriving DecidableEq, Repr

/-- Why the machine stops in a fault. -/
inductive Fault where
  /-- A command or the read window needs a cell of a buffer that holds no value (R36). Raised by the commands that read a buffer and by
  BUF_DATA; no state that a run reaches raises it. Safe: the machine stops and invents no sample. -/
  | emptyCell (b : BufSel)
  deriving DecidableEq, Repr

/-- Why the machine gives something no meaning. -/
inductive Refusal where
  /-- The command has no meaning yet. Raised by no arm of exec in this model. Safe. -/
  | notModelled (mnemonic : String)
  /-- The stream of a LOAD or a SAVE meets the register window (R81, R240). Raised by LOAD, LOAD.W, SAVE and SAVE.N. Safe. -/
  | streamOverlapsWindow
  /-- A host access to the register window that is not an aligned 32-bit access (R22). Raised by the host's turn. Safe. -/
  | badRegisterAccess
  deriving DecidableEq, Repr

/-- The state after reset: the values of the table of R23 (R230, R231), both buffers without values, no host memory written. PENDING,
which R37 leaves unspecified, is 0: DESIGN CHOICE, unsafe (notes/assumptions 6). -/
def State.reset : State where
  status      := ⟨false, false, false, false, false, .ok⟩
  srcEn       := false
  dstEn       := false
  layout      := 0
  frameH      := 3040
  frameW      := 4056
  roiX        := 0
  roiY        := 0
  roiW        := 4056
  roiH        := 3040
  srcBase     := 0
  srcLen      := 0
  dstBase     := 0
  dstCap      := 0
  errSeg      := 0
  errExpected := 0
  errActual   := 0
  inGeom      := ⟨0, 0, .planar⟩
  outGeom     := ⟨0, 0, .planar⟩
  bufSel      := .inBuf
  bufIdx      := 0
  inCells     := []
  outCells    := []
  pending     := 0
  mem         := []
  turns       := []
  lastRead    := none
  races       := []
  draws       := 0

end Sys2Proof.Machine
end

