-- ==== Sys2Proof/Machine/Flags.lean ====
section
/-! DEFINITION. STATUS: the word the host reads, the bits the host clears, and what completing a command writes
(spec 10_state.md R28, R29; 44_control.md R193; 60_exceptions.md R200, R205). -/

namespace Sys2Proof.Machine

/-- The numbers of the error codes (R200). -/
def ErrCode.code : ErrCode → Nat
  | .ok            => 0
  | .openError     => 1
  | .shortRead     => 2
  | .writeError    => 3
  | .invalidRoi    => 4
  | .unknownLayout => 5
  | .unknownCmd    => 6
  | .configError   => 7
  | .noData        => 8

/-- STATUS as the host reads it (R28): the reserved bits are zero. -/
def Status.word (f : Status) : Word :=
  BitVec.ofNat 32 (f.busy.toNat + 2 * f.inValid.toNat + 4 * f.outValid.toNat + 8 * f.errSticky.toNat
    + 16 * f.overrun.toNat + 256 * f.errCode.code)

/-- A host write of v to STATUS: a 1 in bit 3 clears ERR_STICKY, a 1 in bit 4 clears OVERRUN, nothing else changes (R29). -/
def Status.clear (f : Status) (v : Word) : Status :=
  { f with
    errSticky := f.errSticky && !v.getLsbD 3
    overrun   := f.overrun && !v.getLsbD 4 }

/-- STATUS after a command completes without error (R191, R193): ERR_STICKY stays as it was. -/
def Status.succeeded (f : Status) : Status :=
  { f with busy := false, errCode := .ok }

/-- STATUS after a command raises an error (R205, steps 3 and 4). -/
def Status.failed (f : Status) (e : ErrCode) : Status :=
  { f with busy := false, errCode := e, errSticky := true }

end Sys2Proof.Machine
end

