-- ==== Sys2Proof/Config.lean ====
section
/-! DEFINITION. What the spec leaves to the platform or to chance: the OPEN parameters of spec 00_scope.md R9 to R14 and the
sources of the values the spec calls unspecified. Every one is a constant without a body, so no proof can see a value of it. -/

namespace Sys2Proof.Config

/-- REG_BASE divided by 4. The type says what R9 requires: the window is 4-byte aligned and, with its 0x80 bytes, lies below 2^32. -/
opaque regBaseQuarter : Fin 0x3FFFFFE1

/-- How far BUF_CAP lies above its lower bound. The type says what R10 requires: BUF_CAP < 2^31. -/
opaque bufCapExcess : Fin 2128988288

/-- The two values of WIDEN_OVR (R11). -/
inductive WidenOvr where
  | wrap
  | saturate
  deriving DecidableEq, Repr, Inhabited

/-- WIDEN_OVR, OPEN: what ×64 makes of a cell above 1023 (R11). -/
opaque widenOvr : WidenOvr

/-- CUBIC, OPEN, on a plane that is not flat: the sample at a row and a column of the result, given the source plane and the size of the
result (R14). Machine/Planes.lean adds the size and flat-field properties of R146. -/
opaque cubicSample : Plane → Nat → Nat → Nat → Nat → Sample

/-- The byte at a host address that nothing has written yet: the spec gives host memory no contents (R60). -/
opaque ramByte : Nat → Byte

/-- The n-th read of a register that R196 leaves unspecified while BUSY = 1. -/
opaque busyRead : Nat → Word

/-- How the k-th byte of the n-th race between the host and the block falls (R232, R236, R237). -/
opaque choice : Nat → Nat → Nat

end Sys2Proof.Config
end

