-- ==== Sys2Proof/Machine/Operands.lean ====
section
/-! DEFINITION. The operands of the commands: every one is read from a register when the command executes (spec 30_encoding.md R98). -/

namespace Sys2Proof.Machine

/-- REG_BASE (R9; notes/assumptions 1). -/
def regBase : Nat := 4 * Config.regBaseQuarter.val

/-- The size of the register window in bytes (R21). -/
def windowSize : Nat := 0x80

/-- The lower bound of BUF_CAP: one default frame (R10). -/
def minBufCap : Nat := 18495360

/-- BUF_CAP, the capacity of each sample buffer in cells (R10). -/
def bufCap : Nat := minBufCap + Config.bufCapExcess.val

/-- Whether n cells fit a sample buffer: n ≤ BUF_CAP. A frame no larger than the default frame fits whatever BUF_CAP is (R10). -/
def fitsBuffer (n : Nat) : Bool :=
  decide (n ≤ minBufCap) || decide (n ≤ bufCap)

/-- `N(H, W)` of R17: the cells of a frame. -/
def frameCells (h w : Nat) : Nat := h * w * 3 / 2

/-- `B(H, W)` of R17: the bytes of a frame's stream. -/
def frameBytes (h w : Nat) : Nat := 3 * h * w

/-- The cells of a frame of this geometry (R68). -/
def Geometry.cells (g : Geometry) : Nat := frameCells g.h.toNat g.w.toNat

/-- The stream bytes of a frame of this geometry (R67). -/
def Geometry.bytes (g : Geometry) : Nat := frameBytes g.h.toNat g.w.toNat

/-- The layout a code of the LAYOUT register stands for (R26); none for an unknown one. -/
def layoutOf (code : Word) : Option Layout :=
  if code = 0 then some .planar
  else if code = 1 then some .semiPlanar
  else none

/-- The code of a layout (R19). -/
def Layout.code : Layout → Word
  | .planar     => 0
  | .semiPlanar => 1

/-- The number of a buffer in BUF_SEL and in the B field (R34, R93). -/
def bufCode : BufSel → Word
  | .inBuf  => 0
  | .outBuf => 1

/-- An effective stream length: a stream is cut at the top of the address space (R61). -/
def effectiveLength (base len : Word) : Nat :=
  min len.toNat (2 ^ 32 - base.toNat)

/-- SRC_EFF (R61). -/
def State.srcEff (s : State) : Nat := effectiveLength s.srcBase s.srcLen

/-- DST_EFF (R61). -/
def State.dstEff (s : State) : Nat := effectiveLength s.dstBase s.dstCap

/-- Whether the n bytes from `base` on meet the register window (R81). -/
def meetsWindow (base n : Nat) : Bool :=
  n != 0 && decide (base < regBase + windowSize ∧ regBase < base + n)

/-- Whether the source stream meets the register window (R81). -/
def State.srcMeetsWindow (s : State) : Bool := meetsWindow s.srcBase.toNat s.srcEff

/-- Whether the destination stream meets the register window (R81). -/
def State.dstMeetsWindow (s : State) : Bool := meetsWindow s.dstBase.toNat s.dstEff

/-- The VALID bit of a buffer (R28). -/
def State.valid (s : State) : BufSel → Bool
  | .inBuf  => s.status.inValid
  | .outBuf => s.status.outValid

/-- The latched geometry of a buffer (R27). -/
def State.geom (s : State) : BufSel → Geometry
  | .inBuf  => s.inGeom
  | .outBuf => s.outGeom

/-- The cells of a buffer that hold a value (R35). -/
def State.cells (s : State) : BufSel → List Sample
  | .inBuf  => s.inCells
  | .outBuf => s.outCells

/-- A region of interest in luma coordinates (R17). -/
structure Roi where
  x : Int
  y : Int
  w : Int
  h : Int
  deriving DecidableEq, Repr

/-- The current ROI: the four registers as signed numbers (R24). -/
def State.roi (s : State) : Roi :=
  ⟨s.roiX.toInt, s.roiY.toInt, s.roiW.toInt, s.roiH.toInt⟩

/-- `valid(x, y, w, h, H, W)` of R160, over the integers. -/
def Roi.valid (r : Roi) (h w : Nat) : Bool :=
  !decide (r.x < 0 ∨ r.y < 0 ∨ r.w ≤ 4 ∨ r.h ≤ 4 ∨ (w : Int) ≤ r.x + r.w ∨ (h : Int) ≤ r.y + r.h)

/-- One segment of a source stream (R111). -/
structure Segment where
  index  : BitVec 2
  offset : Nat
  length : Nat
  deriving DecidableEq, Repr

/-- The segments of a frame in stream order (R111). -/
def segments (l : Layout) (h w : Nat) : List Segment :=
  match l with
  | .planar =>
    [⟨0, 0, 2 * h * w⟩, ⟨1, 2 * h * w, h * w / 2⟩, ⟨2, 2 * h * w + h * w / 2, h * w / 2⟩]
  | .semiPlanar =>
    [⟨0, 0, 2 * h * w⟩, ⟨1, 2 * h * w, h * w⟩]

/-- `avail_k`: the bytes a stream of `eff` bytes holds for a segment (R112). -/
def Segment.available (g : Segment) (eff : Nat) : Nat :=
  min g.length (eff - g.offset)

/-- The first segment a stream of `eff` bytes does not fill (R112). -/
def shortSegment (l : Layout) (h w eff : Nat) : Option Segment :=
  (segments l h w).find? (fun g => decide (g.available eff < g.length))

end Sys2Proof.Machine
end

