-- ==== Sys2Proof/Machine/Ops.lean ====
section
/-! DEFINITION. The shared operations: host memory, races with the host, reading and replacing the cells of a buffer, completing a
command and raising an error (spec 20_memory.md, 44_control.md R191 to R193, 60_exceptions.md R205). -/

namespace Sys2Proof.Machine

/-- What a step answers. -/
abbrev Out := Host.Outcome State Fault Refusal

/-! Host memory (R60). -/

/-- The byte the list holds for an address; none if nothing has written it. -/
def Memory.lookup (m : Memory) (a : Nat) : Option Byte :=
  match m with
  | []             => none
  | (a', b) :: m'  => if a = a' then some b else Memory.lookup m' a

/-- The byte at an address: what was written last, or a byte nobody knows: DESIGN CHOICE, safe
(notes/assumptions 7). -/
def Memory.read (m : Memory) (a : Nat) : Byte :=
  (m.lookup a).getD (Config.ramByte a)

/-- Host memory after one byte is written (MemWrite of R16). -/
def Memory.write (m : Memory) (a : Nat) (b : Byte) : Memory :=
  match m with
  | []              => [(a, b)]
  | (a', b') :: m'  =>
    if a < a' then (a, b) :: (a', b') :: m'
    else if a = a' then (a, b) :: m'
    else (a', b') :: Memory.write m' a b

/-- Host memory after a list of bytes is written from an address on (R67). -/
def Memory.store (m : Memory) (a : Nat) : List Byte → Memory
  | []      => m
  | b :: bs => Memory.store (m.write a b) (a + 1) bs

/-- The canonical form: every address is below 2^32, and the addresses rise strictly. -/
abbrev Memory.wf (m : Memory) : Prop :=
  (∀ c ∈ m, c.1 < 2 ^ 32) ∧ m.Pairwise (fun c d => c.1 < d.1)

/-! Cells and bytes (R62). -/

/-- `le16` of R16: a cell from two stream bytes, the low byte first. -/
def le16 (b0 b1 : Byte) : Sample :=
  BitVec.ofNat 16 (b0.toNat + 256 * b1.toNat)

/-- The two stream bytes of a cell, the low byte first (R62). -/
def cellBytes (v : Sample) : List Byte :=
  [v.extractLsb' 0 8, v.extractLsb' 8 8]

/-- The stream of a list of cells (R62, R68). -/
def streamOf (cells : List Sample) : List Byte :=
  cells.flatMap cellBytes

/-! Races between the host and a busy block (R232, R236, R237). -/

/-- The bytes that the host has replaced at an address while the current command is pending. -/
def State.replacedAt (s : State) (a : Nat) : List Byte :=
  (s.races.filter (fun c => c.1 == a)).map (·.2)

/-- One byte out of `b` and `others`, unspecified which: the k-th byte of the next draw. -/
def State.pick (s : State) (k : Nat) (b : Byte) (others : List Byte) : Byte :=
  match others with
  | [] => b
  | _  => (b :: others).getD (Config.choice s.draws k % (others.length + 1)) b

/-- Byte k of the source stream as the running command loads it (R61): a byte the host has written meanwhile is the old one or one of
those written (R236). -/
def State.srcByte (s : State) (k : Nat) : Byte :=
  let a := s.srcBase.toNat + k
  s.pick k (s.mem.read a) (s.replacedAt a)

/-- What the bytes `bs` leave at stream offset k and on of the destination, each byte for which `open?` holds being either itself or what
memory holds there (R232, R237). -/
def State.settle (s : State) (undecided : Nat → Bool) (k : Nat) : List Byte → List Byte
  | []      => []
  | b :: bs =>
    let a := s.dstBase.toNat + k
    (if undecided a then s.pick k b [s.mem.read a] else b) :: State.settle s undecided (k + 1) bs

/-! Sample buffers (R35). -/

/-- The new contents of a buffer whose first cells are replaced; the cells past them are not touched (R35). -/
def overlay (new old : List Sample) : List Sample :=
  new ++ old.drop new.length

/-- Goes on with the meaningful cells of a buffer (R35). A buffer in which some of them hold no value stops the machine (R36). -/
def State.withCells (s : State) (b : BufSel) (k : List Sample → Out) : Out :=
  if (s.geom b).cells ≤ (s.cells b).length then k ((s.cells b).take (s.geom b).cells)
  else .fault (.emptyCell b)

/-- The staged write of a buffer's first cells (R192). -/
def State.setCells (s : State) (b : BufSel) (new : List Sample) : State :=
  match b with
  | .inBuf  => { s with inCells := overlay new s.inCells }
  | .outBuf => { s with outCells := overlay new s.outCells }

/-- The staged write of a frame into IN: its cells, its geometry, IN_VALID, and the full frame as the ROI (R113, R115). -/
def State.commitIn (s : State) (cells : List Sample) (g : Geometry) : State :=
  { s with
    inCells := overlay cells s.inCells
    inGeom  := g
    status  := { s.status with inValid := true }
    roiX    := 0
    roiY    := 0
    roiW    := g.w
    roiH    := g.h }

/-- The staged write of a frame into OUT: its cells, IN's geometry, OUT_VALID (R140, R143, R162). -/
def State.commitOut (s : State) (cells : List Sample) : State :=
  { s with
    outCells := overlay cells s.outCells
    outGeom  := s.inGeom
    status   := { s.status with outValid := true } }

/-- The staged write of the ROI registers (R162). -/
def State.setRoi (s : State) (r : Roi) : State :=
  { s with
    roiX := BitVec.ofInt 32 r.x
    roiY := BitVec.ofInt 32 r.y
    roiW := BitVec.ofInt 32 r.w
    roiH := BitVec.ofInt 32 r.h }

/-! The end of a command. -/

/-- An error with what it records (R200, R202). -/
inductive Error where
  | openError
  | shortRead (seg : BitVec 2) (expected actual : Word)
  | writeError
  | invalidRoi
  | unknownLayout
  | unknownCmd
  | configError
  | noData
  deriving DecidableEq, Repr

/-- The code of an error (R200). -/
def Error.errCode : Error → ErrCode
  | .openError       => .openError
  | .shortRead _ _ _ => .shortRead
  | .writeError      => .writeError
  | .invalidRoi      => .invalidRoi
  | .unknownLayout   => .unknownLayout
  | .unknownCmd      => .unknownCmd
  | .configError     => .configError
  | .noData          => .noData

/-- The record of a short read (R202); any other error leaves it as it was (R33). -/
def State.record (s : State) : Error → State
  | .shortRead seg expected actual => { s with errSeg := seg, errExpected := expected, errActual := actual }
  | _                              => s

/-- The error entry of R205: no staged write is committed, a short read is recorded, ERR_CODE and ERR_STICKY are set, BUSY is cleared.
There is no return from it (R211). -/
def State.raise (s : State) (e : Error) : State :=
  { s.record e with status := s.status.failed e.errCode, races := [] }

/-- The completion without error of R191 and R193, after the staged writes. -/
def State.complete (s : State) : State :=
  { s with status := s.status.succeeded, races := [] }

/-- A next draw is a fresh one (notes/assumptions 5). -/
def State.drawn (s : State) : State :=
  { s with draws := s.draws + 1 }

end Sys2Proof.Machine
end

