-- ==== Sys2Proof/Machine/BitDepth.lean ====
section
/-! DEFINITION. The cell functions `widen` and `narrow`, and WIDEN and NARROW (spec 41_bitdepth.md R130 to R133). -/

namespace Sys2Proof.Machine

/-- `widen` of R130: times 64; above 1023 as WIDEN_OVR says. -/
def widen (v : Sample) : Sample :=
  if v.toNat ≤ 1023 then BitVec.ofNat 16 (v.toNat * 64)
  else match Config.widenOvr with
    | .wrap     => BitVec.ofNat 16 (v.toNat * 64 % 65536)
    | .saturate => 65535

/-- `narrow` of R131: divided by 64, truncating. -/
def narrow (v : Sample) : Sample :=
  BitVec.ofNat 16 (v.toNat / 64)

/-- The common procedure of R132 and R133: a cell function on every meaningful cell of one buffer, in place. -/
def convertInPlace (f : Sample → Sample) (b : BufSel) (s : State) : Out :=
  if s.valid b then s.withCells b fun cells => .next (s.setCells b (cells.map f)).complete
  else .next (s.raise .noData)

/-- WIDEN (R132). -/
def execWiden (b : BufSel) (s : State) : Out := convertInPlace widen b s

/-- NARROW (R133). -/
def execNarrow (b : BufSel) (s : State) : Out := convertInPlace narrow b s

end Sys2Proof.Machine
end

