-- ==== Sys2Proof/Machine/Codec.lean ====
section
/-! DEFINITION. LOAD, LOAD.W, SAVE and SAVE.N (spec 40_codec.md R110 to R119). -/

namespace Sys2Proof.Machine

/-- Check 2 of R110: an even, non-empty frame that fits the buffer. -/
def frameOk (h w : Nat) : Bool :=
  decide (2 ≤ h) && decide (2 ≤ w) && decide (h % 2 = 0) && decide (w % 2 = 0) && fitsBuffer (frameCells h w)

/-- The short read a segment is reported with (R112, R202). -/
def Segment.shortRead (g : Segment) (eff : Nat) : Error :=
  .shortRead g.index (BitVec.ofNat 32 g.length) (BitVec.ofNat 32 (g.available eff))

/-- The checks of R110 in their order: the first error, or the geometry of the frame to load. -/
def State.loadCheck (s : State) : Except Error Geometry :=
  match layoutOf s.layout with
  | none   => .error .unknownLayout
  | some l =>
    if !frameOk s.frameH.toNat s.frameW.toNat then .error .configError
    else if !s.srcEn then .error .openError
    else match shortSegment l s.frameH.toNat s.frameW.toNat s.srcEff with
      | some g => .error (g.shortRead s.srcEff)
      | none   => .ok ⟨s.frameH, s.frameW, l⟩

/-- The first n cells of the source stream (R62). -/
def State.srcCells (s : State) (n : Nat) : List Sample :=
  (List.range n).map fun i => le16 (s.srcByte (2 * i)) (s.srcByte (2 * i + 1))

/-- The common procedure of R113 and R114, with the cell function the C flag selects. -/
def loadFrame (f : Sample → Sample) (s : State) : State :=
  match s.loadCheck with
  | .error e => s.raise e
  | .ok g    => (s.commitIn ((s.srcCells g.cells).map f) g).drawn.complete

/-- A LOAD whose source stream meets the register window is refused (R81). Only the stream the command uses counts: DEDUCED, unsafe
(notes/assumptions 9). -/
def loadCommand (f : Sample → Sample) (s : State) : Out :=
  if s.srcMeetsWindow then .refused .streamOverlapsWindow else .next (loadFrame f s)

/-- LOAD (R113). -/
def execLoad (s : State) : Out := loadCommand id s

/-- LOAD.W (R114). -/
def execLoadW (s : State) : Out := loadCommand widen s

/-- The checks of R119 in their order. -/
def State.saveCheck (s : State) : Option Error :=
  if !s.status.outValid then some .noData
  else if !s.dstEn then some .writeError
  else if s.dstEff < s.outGeom.bytes then some .writeError
  else none

/-- The common procedure of R117 and R118, with the cell function the C flag selects. A destination byte the host has written meanwhile
ends as the host's or as the command's (R237). -/
def saveFrame (f : Sample → Sample) (s : State) : Out :=
  match s.saveCheck with
  | some e => .next (s.raise e)
  | none   => s.withCells .outBuf fun cells =>
      let bytes := s.settle (fun a => !(s.replacedAt a).isEmpty) 0 (streamOf (cells.map f))
      .next { s with mem := s.mem.store s.dstBase.toNat bytes }.drawn.complete

/-- A SAVE whose destination stream meets the register window is refused (R81), in the same reading (notes/assumptions 9). -/
def saveCommand (f : Sample → Sample) (s : State) : Out :=
  if s.dstMeetsWindow then .refused .streamOverlapsWindow else saveFrame f s

/-- SAVE (R117). -/
def execSave (s : State) : Out := saveCommand id s

/-- SAVE.N (R118). -/
def execSaveN (s : State) : Out := saveCommand narrow s

/-- The bytes a SAVE with this cell function would write (R232, R237): none if it would raise an error. -/
def State.saveImage (f : Sample → Sample) (s : State) : List Byte :=
  match s.saveCheck with
  | some _ => []
  | none   => streamOf ((s.outCells.take s.outGeom.cells).map f)

end Sys2Proof.Machine
end

