-- ==== Sys2Proof/Machine/Control.lean ====
section
/-! DEFINITION. NOP (spec 44_control.md R194). -/

namespace Sys2Proof.Machine

/-- NOP (R194): it completes, which sets ERR_CODE to OK, and has no other effect. -/
def execNop (s : State) : Out := .next s.complete

end Sys2Proof.Machine
end

