-- ==== Sys2Proof/Machine/Planes.lean ====
section
/-! DEFINITION. Plane views, crops, the CUBIC parameter with its required properties, and the pure function `resample`
(spec 20_memory.md R70 to R72, 42_resampler.md R141, R142, R146, R147). -/

namespace Sys2Proof.Machine

/-- The buffer index of `Y[r][c]` (R70). -/
def lumaIndex (w r c : Nat) : Nat := r * w + c

/-- The buffer index of `U[r][c]` in 420p (R71). -/
def uIndex (h w r c : Nat) : Nat := h * w + r * (w / 2) + c

/-- The buffer index of `V[r][c]` in 420p (R71). -/
def vIndex (h w r c : Nat) : Nat := h * w + h * w / 4 + r * (w / 2) + c

/-- The buffer index of `UV[r][c][k]` in 420sp (R72). -/
def uvIndex (h w k r c : Nat) : Nat := h * w + r * w + 2 * c + k

/-- A rectangle of a plane: its corner and its size. -/
structure Rect where
  x : Nat
  y : Nat
  w : Nat
  h : Nat
  deriving DecidableEq, Repr

/-- The luma rectangle of a valid ROI. -/
def Roi.luma (r : Roi) : Rect := ⟨r.x.toNat, r.y.toNat, r.w.toNat, r.h.toNat⟩

/-- The chroma rectangle of a luma rectangle (R141). -/
def Rect.chroma (r : Rect) : Rect := ⟨r.x / 2, r.y / 2, r.w / 2, r.h / 2⟩

/-- `crop` of R17 of the plane whose cell at row r and column c stands at buffer index `idx r c`. -/
def crop (cells : List Sample) (idx : Nat → Nat → Nat) (r : Rect) : Plane where
  rows  := r.h
  cols  := r.w
  cells := (List.range r.h).flatMap fun i =>
    (List.range r.w).filterMap fun j => cells[idx (r.y + i) (r.x + j)]?

/-- The value of a flat plane: the one sample that every cell of it holds. -/
def flatValue (p : Plane) : Option Sample :=
  match p.cells with
  | []      => none
  | v :: vs => if vs.all (· == v) then some v else none

/-- `CUBIC(p, h, w)`: any function of its arguments with an h × w result (R146 a, b, c) that keeps a flat field (R146 d). -/
def cubic (p : Plane) (h w : Nat) : List Sample :=
  match flatValue p with
  | some v => List.replicate (h * w) v
  | none   => (List.range (h * w)).map fun i => Config.cubicSample p h w (i / w) (i % w)

/-- Two channels, interleaved (R72). -/
def interleave : List Sample → List Sample → List Sample
  | u :: us, v :: vs => u :: v :: interleave us vs
  | _, _             => []

/-- `resample` of R142: each plane is cropped to its rectangle and resampled to the plane's full size; the planes follow each other as the
views of R70 to R72 lay them out. -/
def resample (cells : List Sample) (g : Geometry) (roi : Roi) : List Sample :=
  let h := g.h.toNat
  let w := g.w.toNat
  let chroma (idx : Nat → Nat → Nat) := cubic (crop cells idx roi.luma.chroma) (h / 2) (w / 2)
  cubic (crop cells (lumaIndex w) roi.luma) h w ++
    match g.layout with
    | .planar     => chroma (uIndex h w) ++ chroma (vIndex h w)
    | .semiPlanar => interleave (chroma (uvIndex h w 0)) (chroma (uvIndex h w 1))

end Sys2Proof.Machine
end

