-- ==== Sys2Proof/Machine/Resampler.lean ====
section
/-! DEFINITION. COPY and ZOOM (spec 42_resampler.md R140, R143). -/

namespace Sys2Proof.Machine

/-- COPY (R140). -/
def execCopy (s : State) : Out :=
  if s.status.inValid then s.withCells .inBuf fun cells => .next (s.commitOut cells).complete
  else .next (s.raise .noData)

/-- OUT becomes the zoom of IN at a ROI that has been validated (R143, R162). -/
def State.zoomAt (s : State) (r : Roi) : Out :=
  s.withCells .inBuf fun cells => .next (s.commitOut (resample cells s.inGeom r)).complete

/-- Whether a ROI is valid for the frame in IN (R160). -/
def State.roiFits (s : State) (r : Roi) : Bool :=
  r.valid s.inGeom.h.toNat s.inGeom.w.toNat

/-- ZOOM (R143). -/
def execZoom (s : State) : Out :=
  if !s.status.inValid then .next (s.raise .noData)
  else if !s.roiFits s.roi then .next (s.raise .invalidRoi)
  else s.zoomAt s.roi

end Sys2Proof.Machine
end

