-- ==== Sys2Proof/Machine/RoiSteps.lean ====
section
/-! DEFINITION. The ROI steps ZIN, ZOUT, PANL, PANR, PANU and PAND (spec 43_roi.md R162 to R168). -/

namespace Sys2Proof.Machine

/-- `propose_ZIN` (R163). -/
def proposeZin (r : Roi) : Roi :=
  ⟨r.x + r.w.tdiv 20, r.y + r.h.tdiv 20, (r.w * 18).tdiv 20, (r.h * 18).tdiv 20⟩

/-- `propose_ZOUT` (R164). -/
def proposeZout (r : Roi) : Roi :=
  ⟨r.x - r.w.tdiv 20, r.y - r.h.tdiv 20, (r.w * 22).tdiv 20, (r.h * 22).tdiv 20⟩

/-- `propose_PANL` (R165). -/
def proposePanl (r : Roi) : Roi := { r with x := r.x - r.w.tdiv 20 }

/-- `propose_PANR` (R166). -/
def proposePanr (r : Roi) : Roi := { r with x := r.x + r.w.tdiv 20 }

/-- `propose_PANU` (R167): the row number grows. -/
def proposePanu (r : Roi) : Roi := { r with y := r.y + r.h.tdiv 20 }

/-- `propose_PAND` (R168). -/
def proposePand (r : Roi) : Roi := { r with y := r.y - r.h.tdiv 20 }

/-- The step procedure of R162. -/
def roiStep (propose : Roi → Roi) (s : State) : Out :=
  if !s.status.inValid then .next (s.raise .noData)
  else if !s.roiFits (propose s.roi) then .next (s.raise .invalidRoi)
  else (s.setRoi (propose s.roi)).zoomAt (propose s.roi)

/-- ZIN (R163). -/
def execZin (s : State) : Out := roiStep proposeZin s

/-- ZOUT (R164). -/
def execZout (s : State) : Out := roiStep proposeZout s

/-- PANL (R165). -/
def execPanl (s : State) : Out := roiStep proposePanl s

/-- PANR (R166). -/
def execPanr (s : State) : Out := roiStep proposePanr s

/-- PANU (R167). -/
def execPanu (s : State) : Out := roiStep proposePanu s

/-- PAND (R168). -/
def execPand (s : State) : Out := roiStep proposePand s

end Sys2Proof.Machine
end

