-- ==== Sys2Proof/Machine/Dispatch.lean ====
section
/-! DEFINITION. Which meaning each command has: the execution of a decoded command of spec 44_control.md R191. -/

namespace Sys2Proof.Machine

def exec (i : Instr) (s : State) : Host.Outcome State Fault Refusal :=
  match i with
  | .nop => Sys2Proof.Machine.execNop s
  | .load => Sys2Proof.Machine.execLoad s
  | .loadW => Sys2Proof.Machine.execLoadW s
  | .save => Sys2Proof.Machine.execSave s
  | .saveN => Sys2Proof.Machine.execSaveN s
  | .widen b => Sys2Proof.Machine.execWiden b s
  | .narrow b => Sys2Proof.Machine.execNarrow b s
  | .copy => Sys2Proof.Machine.execCopy s
  | .zoom => Sys2Proof.Machine.execZoom s
  | .zin => Sys2Proof.Machine.execZin s
  | .zout => Sys2Proof.Machine.execZout s
  | .panl => Sys2Proof.Machine.execPanl s
  | .panr => Sys2Proof.Machine.execPanr s
  | .panu => Sys2Proof.Machine.execPanu s
  | .pand => Sys2Proof.Machine.execPand s

end Sys2Proof.Machine
end

