-- ==== Sys2Proof/WellFormed.lean ====
section
/-! DEFINITION. When a command word is well formed, and why it is not: the list of spec 30_encoding.md R97. -/

namespace Sys2Proof

/-- The reasons of R97 for which a word decodes to ILLEGAL. -/
inductive IllFormed where
  /-- A bit of [11:10] or [31:16] is not zero. -/
  | reservedBits
  /-- OP is 0x08 to 0xFF. -/
  | reservedOpcode
  /-- STEP is 6 to 15 in a ROISTEP. -/
  | reservedStep
  /-- C = 1 outside LOAD and SAVE. -/
  | strayConvert
  /-- B = 1 outside WIDEN and NARROW. -/
  | strayBuffer
  /-- STEP is not zero outside ROISTEP. -/
  | strayStep
  deriving DecidableEq, Repr

/-- The fields of R91. -/
structure Fields where
  op        : Nat
  convert   : Bool
  buffer    : Bool
  low       : Nat
  step      : Nat
  high      : Nat
  deriving DecidableEq, Repr

/-- The fields of a command word (R91). -/
def fieldsOf (w : Word) : Fields where
  op      := w.toNat % 256
  convert := w.toNat / 256 % 2 == 1
  buffer  := w.toNat / 512 % 2 == 1
  low     := w.toNat / 1024 % 4
  step    := w.toNat / 4096 % 16
  high    := w.toNat / 65536

/-- The first reason of R97 that makes a word ILLEGAL; none for a well-formed word. -/
def illFormed? (w : Word) : Option IllFormed :=
  let f := fieldsOf w
  if f.low ≠ 0 ∨ f.high ≠ 0 then some .reservedBits
  else if 8 ≤ f.op then some .reservedOpcode
  else if f.op = 7 ∧ 6 ≤ f.step then some .reservedStep
  else if f.convert ∧ f.op ≠ 1 ∧ f.op ≠ 2 then some .strayConvert
  else if f.buffer ∧ f.op ≠ 3 ∧ f.op ≠ 4 then some .strayBuffer
  else if f.op ≠ 7 ∧ f.step ≠ 0 then some .strayStep
  else none

/-- The operands of every command have closed types, so every term of `Instr` is well formed: R98 gives no command an operand that
could be out of range. -/
def Instr.wellFormed : Instr → Bool
  | .nop | .load | .loadW | .save | .saveN => true
  | .widen _ | .narrow _ => true
  | .copy | .zoom => true
  | .zin | .zout | .panl | .panr | .panu | .pand => true

end Sys2Proof
end

