-- ==== Sys2Proof/Decode.lean ====
section
/-! DEFINITION. Decoding and encoding of command words, from the opcode table of spec 30_encoding.md R95 and R96. -/

namespace Sys2Proof

/-- One row of the opcode table: a word matches it if its bits under the mask are the pattern (R96). -/
structure Row where
  mask    : Word
  pattern : Word
  instr   : Word → Instr

/-- B = word[9] (R93): 0 selects IN, 1 selects OUT. -/
def bufferField (w : Word) : BufSel :=
  if w.getLsbD 9 then .outBuf else .inBuf

/-- The opcode table (R95). -/
def opcodeTable : List Row := [
  ⟨0xFFFFFFFF, 0x00000000, fun _ => .nop⟩,
  ⟨0xFFFFFFFF, 0x00000001, fun _ => .load⟩,
  ⟨0xFFFFFFFF, 0x00000101, fun _ => .loadW⟩,
  ⟨0xFFFFFFFF, 0x00000002, fun _ => .save⟩,
  ⟨0xFFFFFFFF, 0x00000102, fun _ => .saveN⟩,
  ⟨0xFFFFFDFF, 0x00000003, fun w => .widen (bufferField w)⟩,
  ⟨0xFFFFFDFF, 0x00000004, fun w => .narrow (bufferField w)⟩,
  ⟨0xFFFFFFFF, 0x00000005, fun _ => .copy⟩,
  ⟨0xFFFFFFFF, 0x00000006, fun _ => .zoom⟩,
  ⟨0xFFFFFFFF, 0x00000007, fun _ => .zin⟩,
  ⟨0xFFFFFFFF, 0x00001007, fun _ => .zout⟩,
  ⟨0xFFFFFFFF, 0x00002007, fun _ => .panl⟩,
  ⟨0xFFFFFFFF, 0x00003007, fun _ => .panr⟩,
  ⟨0xFFFFFFFF, 0x00004007, fun _ => .panu⟩,
  ⟨0xFFFFFFFF, 0x00005007, fun _ => .pand⟩]

/-- R96: the row a word matches gives its command; a word that matches no row is ILLEGAL, with the reason of R97. -/
def decode (w : Word) : Except IllFormed Instr :=
  match opcodeTable.find? (fun r => w &&& r.mask == r.pattern) with
  | some r => .ok (r.instr w)
  | none   => .error ((illFormed? w).getD .reservedOpcode)

/-- B as a bit of the word (R93). -/
def bufferBit : BufSel → Word
  | .inBuf  => 0x000
  | .outBuf => 0x200

/-- The command word of a command (R95). -/
def encode : Instr → Word
  | .nop      => 0x00000000
  | .load     => 0x00000001
  | .loadW    => 0x00000101
  | .save     => 0x00000002
  | .saveN    => 0x00000102
  | .widen b  => 0x00000003 ||| bufferBit b
  | .narrow b => 0x00000004 ||| bufferBit b
  | .copy     => 0x00000005
  | .zoom     => 0x00000006
  | .zin      => 0x00000007
  | .zout     => 0x00001007
  | .panl     => 0x00002007
  | .panr     => 0x00003007
  | .panu     => 0x00004007
  | .pand     => 0x00005007

/-- The command word whose lowest `nbits` bits are those of `w` and whose other bits are 0 (R90: one command is one 32-bit word). -/
def commandWord (nbits w : Nat) : Word :=
  BitVec.ofNat 32 (w % 2 ^ nbits)

/-- The command the decoder reads from an opcode-table word; none for an ILLEGAL word. -/
def decodeTableWord (nbits w : Nat) : Option Instr :=
  match decode (commandWord nbits w) with
  | .ok i    => some i
  | .error _ => none

end Sys2Proof
end

