-- ==== Sys2Proof/Machine/Window.lean ====
section
/-! DEFINITION. The register window: the register map and what a read and a write of each register do
(spec 10_state.md R21, R23 to R34; 44_control.md R190, R195, R196). -/

namespace Sys2Proof.Machine

/-- The 26 registers of R23. -/
inductive Reg where
  | cmd | status | ctrl | layout | frameH | frameW
  | roiX | roiY | roiW | roiH
  | srcBase | srcLen | dstBase | dstCap
  | errSeg | errExpected | errActual
  | inH | inW | inLayout | outH | outW | outLayout
  | bufSel | bufIdx | bufData
  deriving DecidableEq, Repr

/-- The offsets of R23. -/
def registerMap : List (Nat × Reg) := [
  (0x00, .cmd), (0x04, .status), (0x08, .ctrl), (0x0C, .layout), (0x10, .frameH), (0x14, .frameW),
  (0x18, .roiX), (0x1C, .roiY), (0x20, .roiW), (0x24, .roiH),
  (0x28, .srcBase), (0x2C, .srcLen), (0x30, .dstBase), (0x34, .dstCap),
  (0x38, .errSeg), (0x3C, .errExpected), (0x40, .errActual),
  (0x44, .inH), (0x48, .inW), (0x4C, .inLayout), (0x50, .outH), (0x54, .outW), (0x58, .outLayout),
  (0x5C, .bufSel), (0x60, .bufIdx), (0x64, .bufData)]

/-- The register at an offset; none at an unmapped one (R21). -/
def regAt (offset : Nat) : Option Reg :=
  (registerMap.find? (fun e => e.1 == offset)).map (·.2)

/-- BUF_DATA (R34): the selected cell, or 0 past the frame or while the buffer is not valid; none if the cell holds no value. -/
def State.bufData (s : State) : Option Word :=
  if s.valid s.bufSel && decide (s.bufIdx.toNat < (s.geom s.bufSel).cells) then
    (s.cells s.bufSel)[s.bufIdx.toNat]?.map (·.setWidth 32)
  else some 0

/-- CTRL as the host reads it: the bits [31:2] are zero (R31). -/
def State.ctrlWord (s : State) : Word :=
  BitVec.ofNat 32 (s.srcEn.toNat + 2 * s.dstEn.toNat)

/-- The value of a register (R23); none only where BUF_DATA has none. -/
def State.regValue (s : State) : Reg → Option Word
  | .cmd         => some 0
  | .status      => some s.status.word
  | .ctrl        => some s.ctrlWord
  | .layout      => some s.layout
  | .frameH      => some s.frameH
  | .frameW      => some s.frameW
  | .roiX        => some s.roiX
  | .roiY        => some s.roiY
  | .roiW        => some s.roiW
  | .roiH        => some s.roiH
  | .srcBase     => some s.srcBase
  | .srcLen      => some s.srcLen
  | .dstBase     => some s.dstBase
  | .dstCap      => some s.dstCap
  | .errSeg      => some (s.errSeg.setWidth 32)
  | .errExpected => some s.errExpected
  | .errActual   => some s.errActual
  | .inH         => some s.inGeom.h
  | .inW         => some s.inGeom.w
  | .inLayout    => some s.inGeom.layout.code
  | .outH        => some s.outGeom.h
  | .outW        => some s.outGeom.w
  | .outLayout   => some s.outGeom.layout.code
  | .bufSel      => some (bufCode s.bufSel)
  | .bufIdx      => some s.bufIdx
  | .bufData     => s.bufData

/-- The registers whose reads are unspecified while BUSY = 1 (R196). -/
def Reg.unstable : Reg → Bool
  | .roiX | .roiY | .roiW | .roiH => true
  | .errSeg | .errExpected | .errActual => true
  | .inH | .inW | .inLayout | .outH | .outW | .outLayout | .bufData => true
  | .cmd | .status | .ctrl | .layout | .frameH | .frameW => false
  | .srcBase | .srcLen | .dstBase | .dstCap | .bufSel | .bufIdx => false

/-- Issue of a command word (R190). -/
def State.issue (s : State) (c : Word) : State :=
  { s with pending := c, status := { s.status with busy := true } }

/-- A write of v to a register while BUSY = 0 (R23 to R34): a write to a read-only register is ignored (R21). -/
def State.storeReg (s : State) (r : Reg) (v : Word) : State :=
  match r with
  | .cmd     => s.issue v
  | .status  => { s with status := s.status.clear v }
  | .ctrl    => { s with srcEn := v.getLsbD 0, dstEn := v.getLsbD 1 }
  | .layout  => { s with layout := v }
  | .frameH  => { s with frameH := v }
  | .frameW  => { s with frameW := v }
  | .roiX    => { s with roiX := v }
  | .roiY    => { s with roiY := v }
  | .roiW    => { s with roiW := v }
  | .roiH    => { s with roiH := v }
  | .srcBase => { s with srcBase := v }
  | .srcLen  => { s with srcLen := v }
  | .dstBase => { s with dstBase := v }
  | .dstCap  => { s with dstCap := v }
  | .bufSel  => { s with bufSel := if v.getLsbD 0 then .outBuf else .inBuf }
  | .bufIdx  => { s with bufIdx := v }
  | .errSeg | .errExpected | .errActual => s
  | .inH | .inW | .inLayout | .outH | .outW | .outLayout | .bufData => s

/-- A host write to an offset of the window (R21, R29, R195): while BUSY = 1 every write but one to STATUS is dropped and sets OVERRUN,
one to an unmapped offset too: DEDUCED, unsafe (notes/assumptions 10). -/
def State.hostWrite (s : State) (offset : Nat) (v : Word) : State :=
  match regAt offset with
  | some .status => s.storeReg .status v
  | r =>
    if s.status.busy then { s with status := { s.status with overrun := true } }
    else match r with
      | some r => s.storeReg r v
      | none   => s

/-- The host has read a register value. -/
def State.returned (s : State) (v : Word) : State :=
  { s with lastRead := some (.register v) }

/-- A host read of an offset of the window (R21, R23, R196): an unmapped offset reads as 0, and while BUSY = 1 an unstable register reads as
any value. -/
def State.hostRead (s : State) (offset : Nat) : Out :=
  match regAt offset with
  | none   => .next (s.returned 0)
  | some r =>
    if s.status.busy && r.unstable then .next (s.returned (Config.busyRead s.draws)).drawn
    else match s.regValue r with
      | some v => .next (s.returned v)
      | none   => .fault (.emptyCell s.bufSel)

end Sys2Proof.Machine
end

