-- ==== Sys2Proof/Machine/HostPort.lean ====
section
/-! DEFINITION. The actions of the host and of the platform: register accesses, host memory accesses with their races against a busy
block, and reset (spec 10_state.md R22; 20_memory.md R60; 70_reset_and_hazards.md R230, R232, R236, R237). -/

namespace Sys2Proof.Machine

/-- Whether a host address lies in the register window (R21). -/
def inWindow (a : Nat) : Bool :=
  decide (regBase ≤ a ∧ a < regBase + windowSize)

/-- Whether a register access is an aligned 32-bit access (R22). -/
def alignedWord (width : AccessWidth) (offset : BitVec 7) : Bool :=
  width == .word && decide (offset.toNat % 4 = 0)

/-- The bytes a pending SAVE or SAVE.N would write from DST_BASE on; none for any other command (R232, R237). -/
def State.pendingImage (s : State) : List Byte :=
  match decode s.pending with
  | .ok .save  => s.saveImage id
  | .ok .saveN => s.saveImage narrow
  | _          => []

/-- The byte that a pending SAVE would write at an address (R237). -/
def State.pendingByte (s : State) (a : Nat) : Option Byte :=
  if s.status.busy && decide (s.dstBase.toNat ≤ a) then s.pendingImage[a - s.dstBase.toNat]? else none

/-- A host write of a byte of memory. While a command is pending the replaced byte is remembered (R236, R237; notes/assumptions 4). -/
def State.hostStore (s : State) (a : Nat) (b : Byte) : State :=
  { s with
    mem   := s.mem.write a b
    races := if s.status.busy then (a, s.mem.read a) :: s.races else s.races }

/-- A host read of a byte of memory: a byte that a pending SAVE would write reads as the old or the new one (R237). -/
def State.hostLoad (s : State) (a : Nat) : State :=
  match s.pendingByte a with
  | none   => { s with lastRead := some (.memory (s.mem.read a)) }
  | some v => { s with lastRead := some (.memory (s.pick 0 v [s.mem.read a])) }.drawn

/-- Host memory after a reset: each byte a pending SAVE would write is the old or the new one (R232). -/
def State.memAfterReset (s : State) : Memory :=
  if s.status.busy then s.mem.store s.dstBase.toNat (s.settle (fun _ => true) 0 s.pendingImage) else s.mem

/-- Reset (R230): the block's state is that of `State.reset`; host memory lies outside the block: DEDUCED, unsafe (notes/assumptions 14). -/
def State.resetBlock (s : State) : State :=
  { State.reset with
    mem      := s.memAfterReset
    turns    := s.turns
    lastRead := s.lastRead
    draws    := s.draws + 1 }

/-- One action of the host or the platform. A byte access inside the window is an access of another width than 32 bits (R22):
DEDUCED, safe (notes/assumptions 11). -/
def hostTurn (a : HostAction) (s : State) : Out :=
  match a with
  | .writeReg width offset v =>
    if alignedWord width offset then .next (s.hostWrite offset.toNat v) else .refused .badRegisterAccess
  | .readReg width offset =>
    if alignedWord width offset then s.hostRead offset.toNat else .refused .badRegisterAccess
  | .writeMem addr b =>
    if inWindow addr.toNat then .refused .badRegisterAccess else .next (s.hostStore addr.toNat b)
  | .readMem addr =>
    if inWindow addr.toNat then .refused .badRegisterAccess else .next (s.hostLoad addr.toNat)
  | .reset => .next s.resetBlock

end Sys2Proof.Machine
end

