-- ==== Sys2Proof/Machine/Block.lean ====
section
/-! DEFINITION. The block's own step and the choice of who moves (spec 44_control.md R191, R197). -/

namespace Sys2Proof.Machine

/-- The block's step (R191): while BUSY = 1 it executes the word in PENDING, and a word that decodes to ILLEGAL raises UNKNOWN_CMD (R207);
while BUSY = 0 it has no step. -/
def blockTurn (s : State) : Out :=
  if s.status.busy then
    match decode s.pending with
    | .ok i    => exec i s
    | .error _ => .next (s.raise .unknownCmd)
  else .next s

/-- The next turn: the first of the list, or the block's when none is left, so that every issued command completes (R197). -/
def takeTurn (s : State) : Out :=
  match s.turns with
  | []              => blockTurn s
  | .block :: rest  => blockTurn { s with turns := rest }
  | .host a :: rest => hostTurn a { s with turns := rest }

/-- The state in which the word c has just been issued (R190) and the block moves next. -/
def State.withCommand (s : State) (c : Word) : State :=
  { s.issue c with turns := .block :: s.turns }

end Sys2Proof.Machine
end

