-- ==== Sys2Proof/Machine/Step.lean ====
section
/-! DEFINITION. One step of the machine, and how an opcode-table word is placed where the next step executes it. -/

namespace Sys2Proof.Machine

/-- One step: one indivisible action of the host or of the block (spec 44_control.md R190, R191). -/
def step (s : State) : Host.Outcome State Fault Refusal := takeTurn s

/-- The command word w as PENDING, issued, and the block's turn: the block fetches nothing (R79), a command is the word in PENDING (R37). -/
def State.withFetchWord (s : State) (nbits w : Nat) : State := s.withCommand (commandWord nbits w)

end Sys2Proof.Machine
end

