-- ==== Sys2Proof/Safety.lean ====
section
/-! DEFINITION. The terms the statements use: legal frames, held cells, plane views, the stream image of a buffer, and the invariant that
every step keeps. -/

namespace Sys2Proof.Machine

/-- A frame size that check 2 of spec 40_codec.md R110 accepts. -/
def LegalFrame (h w : Nat) : Prop :=
  2 ≤ h ∧ 2 ≤ w ∧ h % 2 = 0 ∧ w % 2 = 0 ∧ h * w * 3 / 2 ≤ bufCap

/-- The frame size of a geometry is legal. -/
def Geometry.Legal (g : Geometry) : Prop := LegalFrame g.h.toNat g.w.toNat

/-- Every meaningful cell of a buffer holds a value (R35). -/
def State.Held (s : State) (b : BufSel) : Prop := (s.geom b).cells ≤ (s.cells b).length

/-- One single-channel plane view of a frame (20_memory.md R70 to R72). -/
structure View where
  rows   : Nat
  cols   : Nat
  chroma : Bool
  index  : Nat → Nat → Nat

/-- The plane views of a frame (R70 to R72). -/
def views (g : Geometry) : List View :=
  let h := g.h.toNat
  let w := g.w.toNat
  ⟨h, w, false, lumaIndex w⟩ ::
    match g.layout with
    | .planar     => [⟨h / 2, w / 2, true, uIndex h w⟩, ⟨h / 2, w / 2, true, vIndex h w⟩]
    | .semiPlanar => [⟨h / 2, w / 2, true, uvIndex h w 0⟩, ⟨h / 2, w / 2, true, uvIndex h w 1⟩]

/-- The rectangle a view is cropped to at a ROI (42_resampler.md R141, R142). -/
def View.rect (v : View) (r : Roi) : Rect := if v.chroma then r.luma.chroma else r.luma

/-- The byte of a cell at an even (0) or odd (1) stream offset (R62). -/
def cellByte (v : Sample) (k : Nat) : Byte :=
  if k % 2 = 0 then v.extractLsb' 0 8 else v.extractLsb' 8 8

/-- A byte that LOAD may take for stream offset k: the one in memory, or one the host has replaced while BUSY = 1 (R236). -/
def State.MayLoad (s : State) (k : Nat) (b : Byte) : Prop :=
  b = s.mem.read (s.srcBase.toNat + k) ∨ (s.srcBase.toNat + k, b) ∈ s.races

/-- Some address lies in the n bytes from `base` on and in the register window (R81). -/
def MeetsWindow (base n : Nat) : Prop :=
  ∃ a, base ≤ a ∧ a < base + n ∧ regBase ≤ a ∧ a < regBase + 0x80

/-- The cell functions of the two SAVE commands (R117, R118). -/
def savedAs : Instr → Option (Sample → Sample)
  | .save  => some id
  | .saveN => some narrow
  | _      => none

/-- The cell functions of the two LOAD commands (R113, R114). -/
def loadedAs : Instr → Option (Sample → Sample)
  | .load  => some id
  | .loadW => some widen
  | _      => none

/-- The commands that read IN, other than WIDEN and NARROW (60_exceptions.md R209). -/
def readsIn : Instr → Bool
  | .copy | .zoom | .zin | .zout | .panl | .panr | .panu | .pand => true
  | _ => false

/-- The ROI a ZOOM or a ROI step works at, from the ROI before it (42_resampler.md R143, 43_roi.md R163 to R168). -/
def roiOf : Instr → Option (Roi → Roi)
  | .zoom => some fun r => r
  | .zin  => some fun r => ⟨r.x + r.w.tdiv 20, r.y + r.h.tdiv 20, (r.w * 18).tdiv 20, (r.h * 18).tdiv 20⟩
  | .zout => some fun r => ⟨r.x - r.w.tdiv 20, r.y - r.h.tdiv 20, (r.w * 22).tdiv 20, (r.h * 22).tdiv 20⟩
  | .panl => some fun r => ⟨r.x - r.w.tdiv 20, r.y, r.w, r.h⟩
  | .panr => some fun r => ⟨r.x + r.w.tdiv 20, r.y, r.w, r.h⟩
  | .panu => some fun r => ⟨r.x, r.y + r.h.tdiv 20, r.w, r.h⟩
  | .pand => some fun r => ⟨r.x, r.y - r.h.tdiv 20, r.w, r.h⟩
  | _     => none

/-- A ROI that passes the validation of 43_roi.md R160 for a frame. -/
def Roi.Fits (r : Roi) (g : Geometry) : Prop :=
  0 ≤ r.x ∧ 0 ≤ r.y ∧ 4 < r.w ∧ 4 < r.h ∧ r.x + r.w < g.w.toNat ∧ r.y + r.h < g.h.toNat

/-- STATUS after a command ends with a code (44_control.md R193): BUSY is cleared, and an error sets ERR_STICKY. -/
def Status.ended (f : Status) (e : ErrCode) : Status :=
  { f with busy := false, errCode := e, errSticky := f.errSticky || decide (e ≠ .ok) }

/-- The state after a command that raises an error other than SHORT_READ (60_exceptions.md R205). -/
def State.rejected (s : State) (e : ErrCode) : State :=
  { s with status := s.status.ended e, races := [] }

/-- The turn the next step takes: the first of the list, or the block's when none is left (44_control.md R197; notes/assumptions 3). -/
def State.nextTurn (s : State) : Turn := s.turns.head?.getD .block

/-- The turns of the state are these (the interleaving is the model's own field). -/
def State.withTurns (s : State) (ts : List Turn) : State := { s with turns := ts }

/-- The invariant. -/
structure State.Inv (s : State) : Prop where
  /-- Host memory has its canonical form. -/
  memory    : s.mem.wf
  /-- A valid IN holds a legal frame (R28, R35, R110). -/
  inFrame   : s.status.inValid = true → s.inGeom.Legal ∧ s.Held .inBuf
  /-- A valid OUT holds a legal frame. -/
  outFrame  : s.status.outValid = true → s.outGeom.Legal ∧ s.Held .outBuf
  /-- OUT is filled from IN (R140, R143, R162). -/
  outFromIn : s.status.outValid = true → s.status.inValid = true
  /-- The buffers have BUF_CAP cells (R35). -/
  inCap     : s.inCells.length ≤ bufCap
  outCap    : s.outCells.length ≤ bufCap
  /-- A race needs a pending command (R236, R237). -/
  idle      : s.status.busy = false → s.races = []

end Sys2Proof.Machine
end

