-- ==== Sys2Proof/Certificates/Slice0/Obligations.lean ====
section
/-! DEFINITION. The statements for the provers. OBLIGATIONS.json lists them with the rules they formalise. -/

open Sys2Proof Sys2Proof.Machine

/-! The encoding (30_encoding.md). -/

/-- The full words of the opcode map (R95), written out, decode to their commands. -/
def Obligations.OpcodeMapWordsDecode : Prop :=
  decode 0x00000000 = .ok .nop ∧
  decode 0x00000001 = .ok .load ∧ decode 0x00000101 = .ok .loadW ∧
  decode 0x00000002 = .ok .save ∧ decode 0x00000102 = .ok .saveN ∧
  decode 0x00000003 = .ok (.widen .inBuf) ∧ decode 0x00000203 = .ok (.widen .outBuf) ∧
  decode 0x00000004 = .ok (.narrow .inBuf) ∧ decode 0x00000204 = .ok (.narrow .outBuf) ∧
  decode 0x00000005 = .ok .copy ∧ decode 0x00000006 = .ok .zoom ∧
  decode 0x00000007 = .ok .zin ∧ decode 0x00001007 = .ok .zout ∧
  decode 0x00002007 = .ok .panl ∧ decode 0x00003007 = .ok .panr ∧
  decode 0x00004007 = .ok .panu ∧ decode 0x00005007 = .ok .pand

/-- Decode and encode agree: every command has exactly one word, and that word decodes to it (R95, R96). -/
def Obligations.DecodeIsTheInverseOfEncode : Prop :=
  ∀ (w : Word) (i : Instr), decode w = .ok i ↔ w = encode i

/-- R97: the words that decode to ILLEGAL, by their fields, and the one word of NOP. -/
def Obligations.IllegalWordsAreThoseOfTheList : Prop :=
  (∀ w : Word, decode w = .ok .nop ↔ w = 0x00000000) ∧ ∀ w : Word,
    let op := w.extractLsb' 0 8
    let step := w.extractLsb' 12 4
    (∃ e, decode w = .error e) ↔
      8 ≤ op.toNat ∨
      (op = 7 ∧ 6 ≤ step.toNat) ∨
      (w.extractLsb' 10 2 ≠ 0 ∨ w.extractLsb' 16 16 ≠ 0) ∨
      (w.getLsbD 8 = true ∧ op ≠ 1 ∧ op ≠ 2) ∨
      (w.getLsbD 9 = true ∧ op ≠ 3 ∧ op ≠ 4) ∨
      (step ≠ 0 ∧ op ≠ 7)

/-- At most one row of the opcode table matches a word (an inference of the spec in R96). -/
def Obligations.AtMostOneRowMatches : Prop :=
  ∀ (w : Word) (i j : Nat) (r q : Row), opcodeTable[i]? = some r → opcodeTable[j]? = some q →
    w &&& r.mask = r.pattern → w &&& q.mask = q.pattern → i = j

/-! The command cycle (44_control.md). -/

/-- The block's turn executes the decoded command in PENDING. -/
def Obligations.BusyBlockExecutesThePendingCommand : Prop :=
  ∀ (s : State) (rest : List Turn) (i : Instr), s.status.busy = true → decode s.pending = .ok i →
    step (s.withTurns (.block :: rest)) = exec i (s.withTurns rest) ∧
    step (s.withTurns []) = exec i (s.withTurns [])

/-- R207: an ILLEGAL word raises UNKNOWN_CMD and changes nothing else. -/
def Obligations.IllegalWordRaisesUnknownCmd : Prop :=
  ∀ (s : State) (rest : List Turn) (e : IllFormed), s.status.busy = true → decode s.pending = .error e →
    step (s.withTurns (.block :: rest)) = .next ((s.withTurns rest).rejected .unknownCmd) ∧
    step (s.withTurns []) = .next ((s.withTurns []).rejected .unknownCmd)

/-- While BUSY = 0 the block has no step (R191), and all state survives idling (R219). -/
def Obligations.IdleBlockChangesNothing : Prop :=
  ∀ (s : State) (rest : List Turn), s.status.busy = false →
    step (s.withTurns (.block :: rest)) = .next (s.withTurns rest) ∧ step (s.withTurns []) = .next (s.withTurns [])

/-- R190: a CMD write while BUSY = 0 stores the word in PENDING and sets BUSY; nothing else changes. -/
def Obligations.CmdWriteIssuesTheWord : Prop :=
  ∀ (s : State) (rest : List Turn) (c : Word), s.status.busy = false →
    step (s.withTurns (.host (.writeReg .word 0x00 c) :: rest)) =
      .next { s.withTurns rest with pending := c, status := { s.status with busy := true } }

/-- R195: while BUSY = 1 a write to any register except STATUS is dropped and sets OVERRUN; a STATUS write is accepted. -/
def Obligations.WritesWhileBusyAreDropped : Prop :=
  ∀ (s : State) (rest : List Turn) (o : BitVec 7) (v : Word), s.status.busy = true → o.toNat % 4 = 0 → o.toNat ≤ 0x64 →
    step (s.withTurns (.host (.writeReg .word o v) :: rest)) =
      if o = 0x04 then
        .next { s.withTurns rest with status := { s.status with
          errSticky := s.status.errSticky && !v.getLsbD 3, overrun := s.status.overrun && !v.getLsbD 4 } }
      else .next { s.withTurns rest with status := { s.status with overrun := true } }

/-- The model's reading of R21 and R195 (notes/assumptions 10): a write to an unmapped offset is ignored while BUSY = 0, and sets OVERRUN
while BUSY = 1; a read of one returns 0 at any time. -/
def Obligations.UnmappedOffsets : Prop :=
  ∀ (s : State) (rest : List Turn) (o : BitVec 7) (v : Word), o.toNat % 4 = 0 → 0x68 ≤ o.toNat →
    step (s.withTurns (.host (.writeReg .word o v) :: rest)) =
      .next { s.withTurns rest with status := { s.status with overrun := s.status.overrun || s.status.busy } } ∧
    step (s.withTurns (.host (.readReg .word o) :: rest)) =
      .next { s.withTurns rest with lastRead := some (.register 0) }

/-- R29: what a STATUS write does, whether or not BUSY is 1. -/
def Obligations.StatusWriteClearsOnlyTheStickyBits : Prop :=
  ∀ (s : State) (rest : List Turn) (v : Word), ∃ t,
    step (s.withTurns (.host (.writeReg .word 0x04 v) :: rest)) = .next t ∧
    t.status.errSticky = (if v.getLsbD 3 = true then false else s.status.errSticky) ∧
    t.status.overrun = (if v.getLsbD 4 = true then false else s.status.overrun) ∧
    t = { s.withTurns rest with status := { s.status with errSticky := t.status.errSticky, overrun := t.status.overrun } }

/-- A write to a writable register while BUSY = 0 sets it, bits that read as zero apart, and changes no other register, buffer or memory
(R23, R25, R26, R31, R32, R34). BUF_DATA is computed from BUF_SEL and BUF_IDX, so it may read otherwise. -/
def Obligations.IdleWriteSetsOnlyItsRegister : Prop :=
  ∀ (s : State) (rest : List Turn) (v : Word), s.status.busy = false →
    ∀ e ∈ ([(0x08, .ctrl, 3), (0x0C, .layout, 0xFFFFFFFF), (0x10, .frameH, 0xFFFFFFFF), (0x14, .frameW, 0xFFFFFFFF),
        (0x18, .roiX, 0xFFFFFFFF), (0x1C, .roiY, 0xFFFFFFFF), (0x20, .roiW, 0xFFFFFFFF), (0x24, .roiH, 0xFFFFFFFF),
        (0x28, .srcBase, 0xFFFFFFFF), (0x2C, .srcLen, 0xFFFFFFFF), (0x30, .dstBase, 0xFFFFFFFF), (0x34, .dstCap, 0xFFFFFFFF),
        (0x5C, .bufSel, 1), (0x60, .bufIdx, 0xFFFFFFFF)] : List (BitVec 7 × Reg × Word)),
      ∃ t, step (s.withTurns (.host (.writeReg .word e.1 v) :: rest)) = .next t ∧
        t.regValue e.2.1 = some (v &&& e.2.2) ∧
        (∀ r, r ≠ e.2.1 → r ≠ .bufData → t.regValue r = s.regValue r) ∧
        t.status = s.status ∧ t.inCells = s.inCells ∧ t.outCells = s.outCells ∧ t.mem = s.mem ∧ t.pending = s.pending ∧
        t.turns = rest ∧ t.lastRead = s.lastRead ∧ t.races = s.races ∧ t.draws = s.draws

/-- A write to a read-only register while BUSY = 0 is ignored and sets no status bit (R21). -/
def Obligations.ReadOnlyRegistersIgnoreWrites : Prop :=
  ∀ (s : State) (rest : List Turn) (v : Word), s.status.busy = false →
    ∀ o ∈ ([0x38, 0x3C, 0x40, 0x44, 0x48, 0x4C, 0x50, 0x54, 0x58, 0x64] : List (BitVec 7)),
      step (s.withTurns (.host (.writeReg .word o v) :: rest)) = .next (s.withTurns rest)

/-- R22: a register access that is not an aligned 32-bit access is refused, and no aligned one is. The third clause, that a byte access to a
host address inside the window is such an access, is the model's reading (DEDUCED, safe: notes/assumptions 11). -/
def Obligations.OnlyAlignedWordAccessesReachTheWindow : Prop :=
  ∀ (s : State) (rest : List Turn) (width : AccessWidth) (o : BitVec 7) (v : Word) (addr : Word) (b : Byte),
    ((∃ r, step (s.withTurns (.host (.writeReg width o v) :: rest)) = .refused r) ↔ ¬ (width = .word ∧ o.toNat % 4 = 0)) ∧
    ((∃ r, step (s.withTurns (.host (.readReg width o) :: rest)) = .refused r) ↔ ¬ (width = .word ∧ o.toNat % 4 = 0)) ∧
    (regBase ≤ addr.toNat → addr.toNat < regBase + 0x80 →
      step (s.withTurns (.host (.readMem addr) :: rest)) = .refused .badRegisterAccess ∧
      step (s.withTurns (.host (.writeMem addr b) :: rest)) = .refused .badRegisterAccess)

/-- R28: the bits of STATUS as a read of it returns them, BUSY or not, with the codes of R200; the reserved bits are zero. -/
def Obligations.StatusReadShowsItsFields : Prop :=
  ∀ (s : State) (rest : List Turn), ∃ v : Word,
    step (s.withTurns (.host (.readReg .word 0x04) :: rest)) = .next { s.withTurns rest with lastRead := some (.register v) } ∧
    v.getLsbD 0 = s.status.busy ∧ v.getLsbD 1 = s.status.inValid ∧ v.getLsbD 2 = s.status.outValid ∧
    v.getLsbD 3 = s.status.errSticky ∧ v.getLsbD 4 = s.status.overrun ∧ v.extractLsb' 5 3 = 0 ∧ v.extractLsb' 12 20 = 0 ∧
    v.extractLsb' 8 4 = (match s.status.errCode with
      | .ok => 0 | .openError => 1 | .shortRead => 2 | .writeError => 3 | .invalidRoi => 4
      | .unknownLayout => 5 | .unknownCmd => 6 | .configError => 7 | .noData => 8)

/-- R34: a read of BUF_DATA while BUSY = 0 returns the selected cell, or 0 past the frame or for a buffer that is not valid, and changes
nothing; a write to it changes nothing. -/
def Obligations.BufDataShowsTheSelectedCell : Prop :=
  ∀ (s : State) (rest : List Turn), s.status.busy = false → (s.valid s.bufSel = true → s.Held s.bufSel) → ∃ v : Word,
    step (s.withTurns (.host (.readReg .word 0x64) :: rest)) = .next { s.withTurns rest with lastRead := some (.register v) } ∧
    (s.valid s.bufSel = true ∧ s.bufIdx.toNat < (s.geom s.bufSel).h.toNat * (s.geom s.bufSel).w.toNat * 3 / 2 →
      ∃ c, (s.cells s.bufSel)[s.bufIdx.toNat]? = some c ∧ v.toNat = c.toNat) ∧
    (¬ (s.valid s.bufSel = true ∧ s.bufIdx.toNat < (s.geom s.bufSel).h.toNat * (s.geom s.bufSel).w.toNat * 3 / 2) → v = 0) ∧
    ∀ u, step (s.withTurns (.host (.writeReg .word 0x64 u) :: rest)) = .next (s.withTurns rest)

/-- R196: what host reads return while BUSY = 1. -/
def Obligations.ReadsWhileBusy : Prop :=
  ∀ (s : State) (rest : List Turn), s.status.busy = true →
    (∀ e ∈ ([(0x00, 0), (0x04, s.status.word), (0x08, s.ctrlWord), (0x0C, s.layout), (0x10, s.frameH), (0x14, s.frameW),
        (0x28, s.srcBase), (0x2C, s.srcLen), (0x30, s.dstBase), (0x34, s.dstCap), (0x5C, bufCode s.bufSel), (0x60, s.bufIdx)]
        : List (BitVec 7 × Word)),
      step (s.withTurns (.host (.readReg .word e.1) :: rest)) =
        .next { s.withTurns rest with lastRead := some (.register e.2) }) ∧
    (∀ o ∈ ([0x18, 0x1C, 0x20, 0x24, 0x38, 0x3C, 0x40, 0x44, 0x48, 0x4C, 0x50, 0x54, 0x58, 0x64] : List (BitVec 7)),
      ∃ v, step (s.withTurns (.host (.readReg .word o) :: rest)) =
        .next { s.withTurns rest with lastRead := some (.register v), draws := s.draws + 1 })

/-- R23 to R34: what a read of each register returns while BUSY = 0, the field its offset names, and that the read changes nothing else.
A read of BUF_DATA returns its computed value; `Obligations.BufDataShowsTheSelectedCell` says which. -/
def Obligations.IdleReadReturnsItsRegister : Prop :=
  ∀ (s : State) (rest : List Turn), s.status.busy = false →
    let reads (o : BitVec 7) (v : Word) : Prop :=
      step (s.withTurns (.host (.readReg .word o) :: rest)) = .next { s.withTurns rest with lastRead := some (.register v) }
    (∀ e ∈ ([(0x00, .cmd, 0), (0x04, .status, s.status.word),
        (0x08, .ctrl, (if s.srcEn = true then 1 else 0) + (if s.dstEn = true then 2 else 0)),
        (0x0C, .layout, s.layout), (0x10, .frameH, s.frameH), (0x14, .frameW, s.frameW),
        (0x18, .roiX, s.roiX), (0x1C, .roiY, s.roiY), (0x20, .roiW, s.roiW), (0x24, .roiH, s.roiH),
        (0x28, .srcBase, s.srcBase), (0x2C, .srcLen, s.srcLen), (0x30, .dstBase, s.dstBase), (0x34, .dstCap, s.dstCap),
        (0x38, .errSeg, s.errSeg.setWidth 32), (0x3C, .errExpected, s.errExpected), (0x40, .errActual, s.errActual),
        (0x44, .inH, s.inGeom.h), (0x48, .inW, s.inGeom.w), (0x4C, .inLayout, if s.inGeom.layout = .planar then 0 else 1),
        (0x50, .outH, s.outGeom.h), (0x54, .outW, s.outGeom.w), (0x58, .outLayout, if s.outGeom.layout = .planar then 0 else 1),
        (0x5C, .bufSel, if s.bufSel = .inBuf then 0 else 1), (0x60, .bufIdx, s.bufIdx)] : List (BitVec 7 × Reg × Word)),
      reads e.1 e.2.2 ∧ s.regValue e.2.1 = some e.2.2) ∧
    ∀ v, s.regValue .bufData = some v → reads 0x64 v

/-! Host memory and its races (20_memory.md, 70_reset_and_hazards.md). -/

/-- A host write outside the window changes the one byte it names, and while BUSY = 1 the byte it replaces is remembered
(notes/assumptions 4). -/
def Obligations.HostWriteChangesOneByte : Prop :=
  ∀ (s : State) (rest : List Turn) (addr : Word) (b : Byte), ¬ (regBase ≤ addr.toNat ∧ addr.toNat < regBase + 0x80) → ∃ t,
    step (s.withTurns (.host (.writeMem addr b) :: rest)) = .next t ∧
    t.mem.read addr.toNat = b ∧ (∀ a, a ≠ addr.toNat → t.mem.read a = s.mem.read a) ∧
    t.races = (if s.status.busy = true then (addr.toNat, s.mem.read addr.toNat) :: s.races else s.races) ∧
    t = { s.withTurns rest with mem := t.mem, races := t.races }

/-- A host read outside the window returns the byte in memory; of a byte that a pending SAVE or SAVE.N would write it returns the old or the
new one (the first half of R237). That the old one is what memory holds at that moment, a byte the host has written meanwhile included, is
the model's reading (DEDUCED, unsafe: notes/assumptions 15). -/
def Obligations.HostReadDuringSaveIsOldOrNew : Prop :=
  ∀ (s : State) (rest : List Turn) (addr : Word), ¬ (regBase ≤ addr.toNat ∧ addr.toNat < regBase + 0x80) →
    ∃ (b : Byte) (d : Nat),
      step (s.withTurns (.host (.readMem addr) :: rest)) =
        .next { s.withTurns rest with lastRead := some (.memory b), draws := d } ∧
      (b = s.mem.read addr.toNat ∨
        ∃ i f k v, s.status.busy = true ∧ decode s.pending = .ok i ∧ savedAs i = some f ∧ s.status.outValid = true ∧
          addr.toNat = s.dstBase.toNat + k ∧ k < 2 * s.outGeom.cells ∧ s.outCells[k / 2]? = some v ∧ b = cellByte (f v) k)

/-- R230 and R231: what reset leaves, whatever the state before it. -/
def Obligations.ResetLeavesTheResetValues : Prop :=
  ∀ (s : State) (rest : List Turn), ∃ t, step (s.withTurns (.host .reset :: rest)) = .next t ∧
    (∀ e ∈ ([(.cmd, 0), (.status, 0), (.ctrl, 0), (.layout, 0), (.frameH, 0x00000BE0), (.frameW, 0x00000FD8),
        (.roiX, 0), (.roiY, 0), (.roiW, 0x00000FD8), (.roiH, 0x00000BE0),
        (.srcBase, 0), (.srcLen, 0), (.dstBase, 0), (.dstCap, 0), (.errSeg, 0), (.errExpected, 0), (.errActual, 0),
        (.inH, 0), (.inW, 0), (.inLayout, 0), (.outH, 0), (.outW, 0), (.outLayout, 0),
        (.bufSel, 0), (.bufIdx, 0), (.bufData, 0)] : List (Reg × Word)), t.regValue e.1 = some e.2) ∧
    t.status = ⟨false, false, false, false, false, .ok⟩ ∧ t.inCells = [] ∧ t.outCells = []

/-- R232, with the model's reading of what a reset does to host memory (notes/assumptions 14 and 15): a reset while BUSY = 1 leaves each
byte that a pending SAVE would have written old or new, and every other byte as it was; a reset while BUSY = 0 leaves memory as it was. -/
def Obligations.ResetDuringSaveLeavesOldOrNewBytes : Prop :=
  ∀ (s : State) (rest : List Turn), ∃ t, step (s.withTurns (.host .reset :: rest)) = .next t ∧ t.turns = rest ∧
    (s.status.busy = false → t.mem = s.mem) ∧
    (∀ a, t.mem.read a = s.mem.read a ∨
      ∃ i f k v, s.status.busy = true ∧ decode s.pending = .ok i ∧ savedAs i = some f ∧ s.status.outValid = true ∧
        a = s.dstBase.toNat + k ∧ k < 2 * s.outGeom.cells ∧ s.outCells[k / 2]? = some v ∧ t.mem.read a = cellByte (f v) k) ∧
    ((∀ i f, decode s.pending = .ok i → savedAs i ≠ some f) → t.mem = s.mem)

/-! Completion and errors (44_control.md R193, 60_exceptions.md). -/

/-- R193: how every command that completes leaves STATUS, ILLEGAL ones among them; the VALID bits are the commands' own. -/
def Obligations.CompletionWritesStatus : Prop :=
  ∀ s t : State, s.status.busy = true → s.nextTurn = .block → step s = .next t →
    t.status.busy = false ∧ t.status.overrun = s.status.overrun ∧
    t.status.errSticky = (s.status.errSticky || decide (t.status.errCode ≠ .ok))

/-- R205: the state after an error is the state before the command plus the status writes and, for SHORT_READ, the record of it. -/
def Obligations.ErrorsArePrecise : Prop :=
  ∀ s t : State, s.status.busy = true → s.nextTurn = .block → step s = .next t → t.status.errCode ≠ .ok →
    t = { s.withTurns s.turns.tail with
      status := { s.status with busy := false, errCode := t.status.errCode, errSticky := true }
      errSeg := t.errSeg, errExpected := t.errExpected, errActual := t.errActual, races := [] } ∧
    (t.status.errCode ≠ .shortRead →
      t.errSeg = s.errSeg ∧ t.errExpected = s.errExpected ∧ t.errActual = s.errActual)

/-- R209: NO_DATA comes before every other error. A SAVE whose destination meets the register window is refused instead (R81;
notes/assumptions 9). -/
def Obligations.CommandsWithoutDataRaiseNoData : Prop :=
  ∀ s : State,
    (∀ i, readsIn i = true → s.status.inValid = false → exec i s = .next (s.rejected .noData)) ∧
    (∀ b, s.valid b = false →
      exec (.widen b) s = .next (s.rejected .noData) ∧ exec (.narrow b) s = .next (s.rejected .noData)) ∧
    (s.status.outValid = false → ¬ MeetsWindow s.dstBase.toNat s.dstEff →
      exec .save s = .next (s.rejected .noData) ∧ exec .saveN s = .next (s.rejected .noData))

/-- The model's reading of R81: a LOAD or a SAVE is refused exactly where its own stream meets the register window, and no other command is refused
(R240; notes/assumptions 9). -/
def Obligations.RefusedExactlyWhereTheStreamMeetsTheWindow : Prop :=
  ∀ (i : Instr) (s : State) (r : Refusal), exec i s = .refused r ↔
    r = .streamOverlapsWindow ∧
      ((i = .load ∨ i = .loadW) ∧ MeetsWindow s.srcBase.toNat (min s.srcLen.toNat (2 ^ 32 - s.srcBase.toNat)) ∨
       (i = .save ∨ i = .saveN) ∧ MeetsWindow s.dstBase.toNat (min s.dstCap.toNat (2 ^ 32 - s.dstBase.toNat)))

/-- R194: NOP. -/
def Obligations.NopOnlyCompletes : Prop :=
  ∀ s : State, exec .nop s = .next { s with status := { s.status with busy := false, errCode := .ok }, races := [] }

/-! The codec (40_codec.md). -/

/-- R110 with R206, R208 and R201: the checks of LOAD and LOAD.W in their order. -/
def Obligations.LoadChecksInOrder : Prop :=
  ∀ (i : Instr) (f : Sample → Sample) (s : State), loadedAs i = some f → ¬ MeetsWindow s.srcBase.toNat s.srcEff →
    let h := s.frameH.toNat
    let w := s.frameW.toNat
    if s.layout ≠ 0 ∧ s.layout ≠ 1 then exec i s = .next (s.rejected .unknownLayout)
    else if h < 2 ∨ w < 2 ∨ h % 2 ≠ 0 ∨ w % 2 ≠ 0 ∨ bufCap < h * w * 3 / 2 then exec i s = .next (s.rejected .configError)
    else if s.srcEn = false then exec i s = .next (s.rejected .openError)
    else ∃ t, exec i s = .next t ∧ t.status.errCode = if s.srcEff < 3 * h * w then .shortRead else .ok

/-- R112 and R202 with the segments of R111: the first short segment is reported, with the bytes it needs and the bytes it has. -/
def Obligations.ShortReadReportsTheFirstShortSegment : Prop :=
  ∀ (i : Instr) (f : Sample → Sample) (s : State), loadedAs i = some f → ¬ MeetsWindow s.srcBase.toNat s.srcEff →
    LegalFrame s.frameH.toNat s.frameW.toNat → s.srcEn = true →
    let p := s.frameH.toNat * s.frameW.toNat
    let report (seg : BitVec 2) (expected actual : Nat) := exec i s =
      .next { s.rejected .shortRead with
        errSeg := seg, errExpected := BitVec.ofNat 32 expected, errActual := BitVec.ofNat 32 actual }
    (s.layout = 0 → s.srcEff < 3 * p →
      if s.srcEff < 2 * p then report 0 (2 * p) s.srcEff
      else if s.srcEff < 2 * p + p / 2 then report 1 (p / 2) (s.srcEff - 2 * p)
      else report 2 (p / 2) (s.srcEff - 2 * p - p / 2)) ∧
    (s.layout = 1 → s.srcEff < 3 * p →
      if s.srcEff < 2 * p then report 0 (2 * p) s.srcEff
      else report 1 p (s.srcEff - 2 * p))

/-- R113, R114 and R115, with the race of R236: a LOAD that passes its checks fills IN from the stream, latches the geometry, validates IN,
sets the ROI to the full frame and changes nothing else. -/
def Obligations.LoadFillsInFromTheStream : Prop :=
  ∀ (i : Instr) (f : Sample → Sample) (l : Layout) (s : State), loadedAs i = some f →
    ¬ MeetsWindow s.srcBase.toNat s.srcEff → s.layout = l.code → LegalFrame s.frameH.toNat s.frameW.toNat → s.srcEn = true →
    3 * s.frameH.toNat * s.frameW.toNat ≤ s.srcEff →
    let n := s.frameH.toNat * s.frameW.toNat * 3 / 2
    ∃ t, exec i s = .next t ∧
      (∀ k, k < n → ∃ b0 b1, s.MayLoad (2 * k) b0 ∧ s.MayLoad (2 * k + 1) b1 ∧
        t.inCells[k]? = some (f (BitVec.ofNat 16 (b0.toNat + 256 * b1.toNat)))) ∧
      (∀ k, n ≤ k → t.inCells[k]? = s.inCells[k]?) ∧
      t = { s with
        inCells := t.inCells, inGeom := ⟨s.frameH, s.frameW, l⟩
        status := { s.status with inValid := true, busy := false, errCode := .ok }
        roiX := 0, roiY := 0, roiW := s.frameW, roiH := s.frameH, races := [], draws := s.draws + 1 }

/-- LOAD.W gives the same state as LOAD followed by WIDEN IN (an inference of the spec in R114). -/
def Obligations.LoadThenWidenIsLoadW : Prop :=
  ∀ s t : State, exec .load s = .next t → t.status.errCode = .ok → exec (.widen .inBuf) t = exec .loadW s

/-- R119 and R203: the checks of SAVE and SAVE.N in their order. -/
def Obligations.SaveChecksInOrder : Prop :=
  ∀ (i : Instr) (f : Sample → Sample) (s : State), savedAs i = some f → ¬ MeetsWindow s.dstBase.toNat s.dstEff →
    if s.status.outValid = false then exec i s = .next (s.rejected .noData)
    else if s.dstEn = false ∨ s.dstEff < 3 * s.outGeom.h.toNat * s.outGeom.w.toNat then
      exec i s = .next (s.rejected .writeError)
    else s.Held .outBuf → ∃ t, exec i s = .next t ∧ t.status.errCode = .ok

/-- R117, R118 and R67, with the race of R237: a SAVE that passes its checks writes the stream of OUT, byte by byte, and no other byte; OUT and
every register but STATUS keep their values. A byte that the host has written while BUSY = 1 ends as the host's or as the command's; that the
host's is what memory holds, the last of several host writes, is the model's reading (DEDUCED, unsafe: notes/assumptions 15). -/
def Obligations.SaveWritesExactlyTheStream : Prop :=
  ∀ (i : Instr) (f : Sample → Sample) (s : State), savedAs i = some f → ¬ MeetsWindow s.dstBase.toNat s.dstEff →
    s.status.outValid = true → s.outGeom.Legal → s.Held .outBuf → s.dstEn = true →
    3 * s.outGeom.h.toNat * s.outGeom.w.toNat ≤ s.dstEff →
    ∃ t, exec i s = .next t ∧
      (∀ k, k < 3 * s.outGeom.h.toNat * s.outGeom.w.toNat → ∃ v, s.outCells[k / 2]? = some v ∧
        (t.mem.read (s.dstBase.toNat + k) = cellByte (f v) k ∨
          (∃ b, (s.dstBase.toNat + k, b) ∈ s.races) ∧
            t.mem.read (s.dstBase.toNat + k) = s.mem.read (s.dstBase.toNat + k))) ∧
      (∀ a, a < s.dstBase.toNat ∨ s.dstBase.toNat + 3 * s.outGeom.h.toNat * s.outGeom.w.toNat ≤ a →
        t.mem.read a = s.mem.read a) ∧
      t = { s with
        mem := t.mem, status := { s.status with busy := false, errCode := .ok }, races := [], draws := s.draws + 1 }

/-- Only a SAVE writes host memory, and one that raises an error does not (R60, R67, R119). -/
def Obligations.OnlyASuccessfulSaveWritesMemory : Prop :=
  ∀ (i : Instr) (s t : State), exec i s = .next t →
    (i ≠ .save ∧ i ≠ .saveN) ∨ t.status.errCode ≠ .ok → t.mem = s.mem

/-- The spec's inference R120: LOAD, COPY and SAVE carry a frame through unchanged, and LOAD.W, COPY and SAVE.N one whose cells are at most 1023 (the odd
bytes of its stream are at most 3). -/
def Obligations.FrameRoundTrip : Prop :=
  ∀ (s : State) (l : Layout), s.layout = l.code → LegalFrame s.frameH.toNat s.frameW.toNat → s.srcEn = true → s.dstEn = true →
    ¬ MeetsWindow s.srcBase.toNat s.srcEff → ¬ MeetsWindow s.dstBase.toNat s.dstEff →
    3 * s.frameH.toNat * s.frameW.toNat ≤ s.srcEff → 3 * s.frameH.toNat * s.frameW.toNat ≤ s.dstEff → s.races = [] →
    let carries (first last : Instr) := ∃ s1 s2 t, exec first s = .next s1 ∧ exec .copy s1 = .next s2 ∧ exec last s2 = .next t ∧
      ∀ k, k < 3 * s.frameH.toNat * s.frameW.toNat →
        t.mem.read (s.dstBase.toNat + k) = s.mem.read (s.srcBase.toNat + k)
    carries .load .save ∧
    ((∀ k, k < s.frameH.toNat * s.frameW.toNat * 3 / 2 → (s.mem.read (s.srcBase.toNat + 2 * k + 1)).toNat ≤ 3) →
      carries .loadW .saveN)

/-- NARROW of OUT and then SAVE leave the same memory as SAVE.N, which leaves OUT as it was (an inference of the spec in
41_bitdepth.md R133). -/
def Obligations.NarrowThenSaveWritesWhatSaveNWrites : Prop :=
  ∀ s : State, s.status.outValid = true → s.outGeom.Legal → s.Held .outBuf → s.dstEn = true →
    3 * s.outGeom.h.toNat * s.outGeom.w.toNat ≤ s.dstEff → ¬ MeetsWindow s.dstBase.toNat s.dstEff → s.races = [] →
    ∃ t u v, exec (.narrow .outBuf) s = .next t ∧ exec .save t = .next u ∧ exec .saveN s = .next v ∧
      u.mem = v.mem ∧ v.outCells = s.outCells

/-! Bit depth (41_bitdepth.md). -/

/-- R130: the cell function of WIDEN. -/
def Obligations.WidenMultipliesBy64 : Prop :=
  ∀ v : Sample, (widen v).toNat =
    if v.toNat ≤ 1023 then v.toNat * 64
    else match Config.widenOvr with
      | .wrap => v.toNat * 64 % 65536
      | .saturate => 65535

/-- R131: the cell function of NARROW. -/
def Obligations.NarrowDividesBy64 : Prop :=
  ∀ v : Sample, (narrow v).toNat = v.toNat / 64 ∧ (narrow v).toNat ≤ 1023

/-- The spec's inference R134: narrow undoes widen on ten bits, and widen after narrow clears the low six bits. -/
def Obligations.WidenAndNarrowCancel : Prop :=
  ∀ v : Sample, (v.toNat ≤ 1023 → narrow (widen v) = v) ∧ (widen (narrow v)).toNat = v.toNat - v.toNat % 64

/-- R132 and R133: WIDEN and NARROW on a valid buffer map its meaningful cells in place and change nothing else. -/
def Obligations.WidenAndNarrowMapTheBuffer : Prop :=
  ∀ (b : BufSel) (s : State), s.valid b = true → s.Held b →
    ∀ e ∈ ([(.widen b, widen), (.narrow b, narrow)] : List (Instr × (Sample → Sample))), ∃ t, exec e.1 s = .next t ∧
      (∀ k, k < (s.geom b).h.toNat * (s.geom b).w.toNat * 3 / 2 →
        ∃ v, (s.cells b)[k]? = some v ∧ (t.cells b)[k]? = some (e.2 v)) ∧
      (∀ k, (s.geom b).h.toNat * (s.geom b).w.toNat * 3 / 2 ≤ k → (t.cells b)[k]? = (s.cells b)[k]?) ∧
      t = { s with
        inCells := if b = .inBuf then t.inCells else s.inCells
        outCells := if b = .outBuf then t.outCells else s.outCells
        status := { s.status with busy := false, errCode := .ok }, races := [] }

/-! The resampler (20_memory.md, 42_resampler.md). -/

/-- The spec's inference R73: every meaningful cell of a legal frame belongs to exactly one plane view, at exactly one place. -/
def Obligations.PlaneViewsPartitionTheBuffer : Prop :=
  ∀ g : Geometry, g.Legal →
    (∀ (n : Nat) (V : View) (r c : Nat), (views g)[n]? = some V → r < V.rows → c < V.cols → V.index r c < g.cells) ∧
    ∀ k, k < g.cells → ∃ (n : Nat) (V : View) (r c : Nat),
      (views g)[n]? = some V ∧ r < V.rows ∧ c < V.cols ∧ V.index r c = k ∧
      ∀ (n' : Nat) (V' : View) (r' c' : Nat), (views g)[n']? = some V' → r' < V'.rows → c' < V'.cols → V'.index r' c' = k →
        n' = n ∧ r' = r ∧ c' = c

/-- R140: COPY. -/
def Obligations.CopyMakesOutEqualIn : Prop :=
  ∀ s : State, s.status.inValid = true → s.Held .inBuf → ∃ t, exec .copy s = .next t ∧
    (∀ k, k < s.inGeom.h.toNat * s.inGeom.w.toNat * 3 / 2 → t.outCells[k]? = s.inCells[k]?) ∧
    (∀ k, s.inGeom.h.toNat * s.inGeom.w.toNat * 3 / 2 ≤ k → t.outCells[k]? = s.outCells[k]?) ∧
    t = { s with
      outCells := t.outCells, outGeom := s.inGeom
      status := { s.status with outValid := true, busy := false, errCode := .ok }, races := [] }

/-- The spec's inference R148: at a valid ROI every crop lies inside its plane, has at least two rows and two columns, and holds the cells of the view. -/
def Obligations.CropsLieInsideTheirPlanes : Prop :=
  ∀ (g : Geometry) (cells : List Sample) (r : Roi) (V : View), g.Legal → g.cells ≤ cells.length → r.Fits g → V ∈ views g →
    2 ≤ (V.rect r).h ∧ 2 ≤ (V.rect r).w ∧ (V.rect r).y + (V.rect r).h < V.rows ∧ (V.rect r).x + (V.rect r).w < V.cols ∧
    (crop cells V.index (V.rect r)).cells.length = (V.rect r).h * (V.rect r).w ∧
    ∀ i j, i < (V.rect r).h → j < (V.rect r).w → ∃ v,
      (crop cells V.index (V.rect r)).cells[i * (V.rect r).w + j]? = some v ∧
      cells[V.index ((V.rect r).y + i) ((V.rect r).x + j)]? = some v

/-- R146 (b) and (d): the size of the result of CUBIC, and flat fields. -/
def Obligations.CubicKeepsSizeAndFlatFields : Prop :=
  ∀ (p : Plane) (h w : Nat), (cubic p h w).length = h * w ∧
    ∀ v, p.cells ≠ [] → (∀ c ∈ p.cells, c = v) → ∀ c ∈ cubic p h w, c = v

/-- R142, R143 and R162 with R163 to R168: a ZOOM or a ROI step at a valid ROI resamples every plane of IN into OUT, sets the ROI registers
to the proposal, and changes nothing else. -/
def Obligations.AcceptedZoomResamplesEveryPlane : Prop :=
  ∀ (i : Instr) (propose : Roi → Roi) (s : State), roiOf i = some propose → s.status.inValid = true → s.inGeom.Legal →
    s.Held .inBuf → (propose s.roi).Fits s.inGeom →
    let r := propose s.roi
    ∃ t, exec i s = .next t ∧
      (∀ V ∈ views s.inGeom, ∀ a c, a < V.rows → c < V.cols → ∃ v,
        t.outCells[V.index a c]? = some v ∧
        (cubic (crop s.inCells V.index (V.rect r)) V.rows V.cols)[a * V.cols + c]? = some v) ∧
      (∀ k, s.inGeom.cells ≤ k → t.outCells[k]? = s.outCells[k]?) ∧
      t.roi = r ∧
      t = { s with
        roiX := t.roiX, roiY := t.roiY, roiW := t.roiW, roiH := t.roiH
        outCells := t.outCells, outGeom := s.inGeom
        status := { s.status with outValid := true, busy := false, errCode := .ok }, races := [] }

/-- R204: a ZOOM or a ROI step whose ROI is not valid raises INVALID_ROI; the ROI and OUT keep their values. -/
def Obligations.InvalidRoiIsRejected : Prop :=
  ∀ (i : Instr) (propose : Roi → Roi) (s : State), roiOf i = some propose → s.status.inValid = true →
    ¬ (propose s.roi).Fits s.inGeom → exec i s = .next (s.rejected .invalidRoi)

/-- R160: validation, over the integers. -/
def Obligations.RoiValidationIsTheSixTests : Prop :=
  ∀ (x y w h : Int) (fh fw : Nat), Roi.valid ⟨x, y, w, h⟩ fh fw = true ↔
    ¬ (x < 0 ∨ y < 0 ∨ w ≤ 4 ∨ h ≤ 4 ∨ x + w ≥ fw ∨ y + h ≥ fh)

/-- The spec's inference R171: the full frame is never a valid ROI, and ZIN from it is accepted exactly from 6 × 6 on. -/
def Obligations.FullFrameIsNeverValid : Prop :=
  ∀ s : State, s.status.inValid = true → s.Held .inBuf → s.inGeom.Legal →
    s.roiX = 0 → s.roiY = 0 → s.roiW = s.inGeom.w → s.roiH = s.inGeom.h →
    exec .zoom s = .next (s.rejected .invalidRoi) ∧
    ∃ t, exec .zin s = .next t ∧
      (t.status.errCode = .ok ↔ 6 ≤ s.inGeom.w.toNat ∧ 6 ≤ s.inGeom.h.toNat)

/-- The spec's inference R169: a ROI step whose proposal is the current valid ROI is accepted and keeps the ROI registers. -/
def Obligations.StepThatProposesTheSameRoiKeepsIt : Prop :=
  ∀ (i : Instr) (propose : Roi → Roi) (s : State), roiOf i = some propose → s.status.inValid = true → s.inGeom.Legal →
    s.Held .inBuf → s.roi.Fits s.inGeom → propose s.roi = s.roi → ∃ t, exec i s = .next t ∧ t.status.errCode = .ok ∧
      t.roiX = s.roiX ∧ t.roiY = s.roiY ∧ t.roiW = s.roiW ∧ t.roiH = s.roiH ∧
      t.outCells.take s.inGeom.cells = resample (s.inCells.take s.inGeom.cells) s.inGeom s.roi

/-- The spec's inference R149: a plane of IN that is flat is flat, with the same value, in OUT after an accepted ZOOM or ROI step. -/
def Obligations.FlatPlanesStayFlat : Prop :=
  ∀ (i : Instr) (propose : Roi → Roi) (s : State), roiOf i = some propose → s.status.inValid = true → s.inGeom.Legal →
    s.Held .inBuf → (propose s.roi).Fits s.inGeom → ∃ t, exec i s = .next t ∧
      ∀ V ∈ views s.inGeom, ∀ v : Sample,
        (∀ a c, a < V.rows → c < V.cols → s.inCells[V.index a c]? = some v) →
        ∀ a c, a < V.rows → c < V.cols → t.outCells[V.index a c]? = some v

/-- R144 and the spec's inference R150: each plane of OUT after a ZOOM depends on the crop of the same plane of IN alone, not on the other planes and not on what
OUT held. -/
def Obligations.PlanesOfAZoomAreIndependent : Prop :=
  ∀ (s s' : State), s.status.inValid = true → s'.status.inValid = true → s.inGeom.Legal → s'.inGeom = s.inGeom →
    s.Held .inBuf → s'.Held .inBuf → s'.roi = s.roi → s.roi.Fits s.inGeom →
    ∃ t t', exec .zoom s = .next t ∧ exec .zoom s' = .next t' ∧
      ∀ V ∈ views s.inGeom,
        (∀ a c, a < (V.rect s.roi).h → c < (V.rect s.roi).w →
          s'.inCells[V.index ((V.rect s.roi).y + a) ((V.rect s.roi).x + c)]? =
            s.inCells[V.index ((V.rect s.roi).y + a) ((V.rect s.roi).x + c)]?) →
        ∀ a c, a < V.rows → c < V.cols → t'.outCells[V.index a c]? = t.outCells[V.index a c]?

/-! The whole machine. -/

/-- The invariant holds after reset. -/
def Obligations.ResetMeetsTheInvariant : Prop := State.reset.Inv

/-- Every step, of the block or of the host, keeps the invariant. -/
def Obligations.EveryStepKeepsTheInvariant : Prop :=
  ∀ s t : State, s.Inv → step s = .next t → t.Inv

/-- R36: no command and no read of the window reads a cell that holds no value: no step from a state that meets the invariant faults. -/
def Obligations.NoStepReadsAnEmptyCell : Prop :=
  ∀ (s : State) (r : Fault), s.Inv → step s ≠ .fault r

/-- R197: an issued command completes at the block's next turn, or is refused because its stream meets the register window. -/
def Obligations.EveryIssuedCommandCompletes : Prop :=
  ∀ s : State, s.Inv → s.status.busy = true → s.nextTurn = .block →
    (∃ t, step s = .next t ∧ t.status.busy = false ∧ t.turns = s.turns.tail) ∨ step s = .refused .streamOverlapsWindow

/-- R35: which turns change IN, its geometry or IN_VALID: the block's turn on LOAD, LOAD.W, or WIDEN or NARROW of IN, and reset. -/
def Obligations.OnlyTheseTurnsChangeIn : Prop :=
  ∀ s t : State, step s = .next t →
    t.inCells ≠ s.inCells ∨ t.inGeom ≠ s.inGeom ∨ t.status.inValid ≠ s.status.inValid →
    s.nextTurn = .host .reset ∨
      s.nextTurn = .block ∧ s.status.busy = true ∧
        ∃ i ∈ [Instr.load, .loadW, .widen .inBuf, .narrow .inBuf], decode s.pending = .ok i

/-- R35: which turns change OUT, its geometry or OUT_VALID: the block's turn on COPY, ZOOM, a ROI step, or WIDEN or NARROW of OUT, and
reset. -/
def Obligations.OnlyTheseTurnsChangeOut : Prop :=
  ∀ s t : State, step s = .next t →
    t.outCells ≠ s.outCells ∨ t.outGeom ≠ s.outGeom ∨ t.status.outValid ≠ s.status.outValid →
    s.nextTurn = .host .reset ∨
      s.nextTurn = .block ∧ s.status.busy = true ∧
        ∃ i ∈ [Instr.copy, .zoom, .zin, .zout, .panl, .panr, .panu, .pand, .widen .outBuf, .narrow .outBuf],
          decode s.pending = .ok i

/-- R28 and R35: the VALID bits and the sticky bits are cleared only as the spec says: the VALID bits by reset, ERR_STICKY and OVERRUN by a
STATUS write of 1 to them or by reset. -/
def Obligations.StatusBitsAreClearedOnlyAsStated : Prop :=
  ∀ s t : State, step s = .next t → s.nextTurn ≠ .host .reset →
    (s.status.inValid = true → t.status.inValid = true) ∧
    (s.status.outValid = true → t.status.outValid = true) ∧
    (s.status.errSticky = true → t.status.errSticky = true ∨
      ∃ v : Word, s.nextTurn = .host (.writeReg .word 0x04 v) ∧ v.getLsbD 3 = true) ∧
    (s.status.overrun = true → t.status.overrun = true ∨
      ∃ v : Word, s.nextTurn = .host (.writeReg .word 0x04 v) ∧ v.getLsbD 4 = true)
end

