-- ==== Sys2Proof/Laws/State.lean ====
section
/-! SUPPORT. One lemma for each field of the state under each update of it. -/

namespace Sys2Proof.Machine

section complete

variable (s : State)

@[simp] theorem State.complete_status : s.complete.status = s.status.succeeded := rfl
@[simp] theorem State.complete_srcEn : s.complete.srcEn = s.srcEn := rfl
@[simp] theorem State.complete_dstEn : s.complete.dstEn = s.dstEn := rfl
@[simp] theorem State.complete_layout : s.complete.layout = s.layout := rfl
@[simp] theorem State.complete_frameH : s.complete.frameH = s.frameH := rfl
@[simp] theorem State.complete_frameW : s.complete.frameW = s.frameW := rfl
@[simp] theorem State.complete_roiX : s.complete.roiX = s.roiX := rfl
@[simp] theorem State.complete_roiY : s.complete.roiY = s.roiY := rfl
@[simp] theorem State.complete_roiW : s.complete.roiW = s.roiW := rfl
@[simp] theorem State.complete_roiH : s.complete.roiH = s.roiH := rfl
@[simp] theorem State.complete_srcBase : s.complete.srcBase = s.srcBase := rfl
@[simp] theorem State.complete_srcLen : s.complete.srcLen = s.srcLen := rfl
@[simp] theorem State.complete_dstBase : s.complete.dstBase = s.dstBase := rfl
@[simp] theorem State.complete_dstCap : s.complete.dstCap = s.dstCap := rfl
@[simp] theorem State.complete_errSeg : s.complete.errSeg = s.errSeg := rfl
@[simp] theorem State.complete_errExpected : s.complete.errExpected = s.errExpected := rfl
@[simp] theorem State.complete_errActual : s.complete.errActual = s.errActual := rfl
@[simp] theorem State.complete_inGeom : s.complete.inGeom = s.inGeom := rfl
@[simp] theorem State.complete_outGeom : s.complete.outGeom = s.outGeom := rfl
@[simp] theorem State.complete_bufSel : s.complete.bufSel = s.bufSel := rfl
@[simp] theorem State.complete_bufIdx : s.complete.bufIdx = s.bufIdx := rfl
@[simp] theorem State.complete_inCells : s.complete.inCells = s.inCells := rfl
@[simp] theorem State.complete_outCells : s.complete.outCells = s.outCells := rfl
@[simp] theorem State.complete_pending : s.complete.pending = s.pending := rfl
@[simp] theorem State.complete_mem : s.complete.mem = s.mem := rfl
@[simp] theorem State.complete_turns : s.complete.turns = s.turns := rfl
@[simp] theorem State.complete_lastRead : s.complete.lastRead = s.lastRead := rfl
@[simp] theorem State.complete_races : s.complete.races = [] := rfl
@[simp] theorem State.complete_draws : s.complete.draws = s.draws := rfl

end complete

section drawn

variable (s : State)

@[simp] theorem State.drawn_status : s.drawn.status = s.status := rfl
@[simp] theorem State.drawn_srcEn : s.drawn.srcEn = s.srcEn := rfl
@[simp] theorem State.drawn_dstEn : s.drawn.dstEn = s.dstEn := rfl
@[simp] theorem State.drawn_layout : s.drawn.layout = s.layout := rfl
@[simp] theorem State.drawn_frameH : s.drawn.frameH = s.frameH := rfl
@[simp] theorem State.drawn_frameW : s.drawn.frameW = s.frameW := rfl
@[simp] theorem State.drawn_roiX : s.drawn.roiX = s.roiX := rfl
@[simp] theorem State.drawn_roiY : s.drawn.roiY = s.roiY := rfl
@[simp] theorem State.drawn_roiW : s.drawn.roiW = s.roiW := rfl
@[simp] theorem State.drawn_roiH : s.drawn.roiH = s.roiH := rfl
@[simp] theorem State.drawn_srcBase : s.drawn.srcBase = s.srcBase := rfl
@[simp] theorem State.drawn_srcLen : s.drawn.srcLen = s.srcLen := rfl
@[simp] theorem State.drawn_dstBase : s.drawn.dstBase = s.dstBase := rfl
@[simp] theorem State.drawn_dstCap : s.drawn.dstCap = s.dstCap := rfl
@[simp] theorem State.drawn_errSeg : s.drawn.errSeg = s.errSeg := rfl
@[simp] theorem State.drawn_errExpected : s.drawn.errExpected = s.errExpected := rfl
@[simp] theorem State.drawn_errActual : s.drawn.errActual = s.errActual := rfl
@[simp] theorem State.drawn_inGeom : s.drawn.inGeom = s.inGeom := rfl
@[simp] theorem State.drawn_outGeom : s.drawn.outGeom = s.outGeom := rfl
@[simp] theorem State.drawn_bufSel : s.drawn.bufSel = s.bufSel := rfl
@[simp] theorem State.drawn_bufIdx : s.drawn.bufIdx = s.bufIdx := rfl
@[simp] theorem State.drawn_inCells : s.drawn.inCells = s.inCells := rfl
@[simp] theorem State.drawn_outCells : s.drawn.outCells = s.outCells := rfl
@[simp] theorem State.drawn_pending : s.drawn.pending = s.pending := rfl
@[simp] theorem State.drawn_mem : s.drawn.mem = s.mem := rfl
@[simp] theorem State.drawn_turns : s.drawn.turns = s.turns := rfl
@[simp] theorem State.drawn_lastRead : s.drawn.lastRead = s.lastRead := rfl
@[simp] theorem State.drawn_races : s.drawn.races = s.races := rfl
@[simp] theorem State.drawn_draws : s.drawn.draws = s.draws + 1 := rfl

end drawn

section commitIn

variable (s : State) (cs : List Sample) (g : Geometry)

@[simp] theorem State.commitIn_status : (s.commitIn cs g).status = { s.status with inValid := true } := rfl
@[simp] theorem State.commitIn_srcEn : (s.commitIn cs g).srcEn = s.srcEn := rfl
@[simp] theorem State.commitIn_dstEn : (s.commitIn cs g).dstEn = s.dstEn := rfl
@[simp] theorem State.commitIn_layout : (s.commitIn cs g).layout = s.layout := rfl
@[simp] theorem State.commitIn_frameH : (s.commitIn cs g).frameH = s.frameH := rfl
@[simp] theorem State.commitIn_frameW : (s.commitIn cs g).frameW = s.frameW := rfl
@[simp] theorem State.commitIn_roiX : (s.commitIn cs g).roiX = 0 := rfl
@[simp] theorem State.commitIn_roiY : (s.commitIn cs g).roiY = 0 := rfl
@[simp] theorem State.commitIn_roiW : (s.commitIn cs g).roiW = g.w := rfl
@[simp] theorem State.commitIn_roiH : (s.commitIn cs g).roiH = g.h := rfl
@[simp] theorem State.commitIn_srcBase : (s.commitIn cs g).srcBase = s.srcBase := rfl
@[simp] theorem State.commitIn_srcLen : (s.commitIn cs g).srcLen = s.srcLen := rfl
@[simp] theorem State.commitIn_dstBase : (s.commitIn cs g).dstBase = s.dstBase := rfl
@[simp] theorem State.commitIn_dstCap : (s.commitIn cs g).dstCap = s.dstCap := rfl
@[simp] theorem State.commitIn_errSeg : (s.commitIn cs g).errSeg = s.errSeg := rfl
@[simp] theorem State.commitIn_errExpected : (s.commitIn cs g).errExpected = s.errExpected := rfl
@[simp] theorem State.commitIn_errActual : (s.commitIn cs g).errActual = s.errActual := rfl
@[simp] theorem State.commitIn_inGeom : (s.commitIn cs g).inGeom = g := rfl
@[simp] theorem State.commitIn_outGeom : (s.commitIn cs g).outGeom = s.outGeom := rfl
@[simp] theorem State.commitIn_bufSel : (s.commitIn cs g).bufSel = s.bufSel := rfl
@[simp] theorem State.commitIn_bufIdx : (s.commitIn cs g).bufIdx = s.bufIdx := rfl
@[simp] theorem State.commitIn_inCells : (s.commitIn cs g).inCells = overlay cs s.inCells := rfl
@[simp] theorem State.commitIn_outCells : (s.commitIn cs g).outCells = s.outCells := rfl
@[simp] theorem State.commitIn_pending : (s.commitIn cs g).pending = s.pending := rfl
@[simp] theorem State.commitIn_mem : (s.commitIn cs g).mem = s.mem := rfl
@[simp] theorem State.commitIn_turns : (s.commitIn cs g).turns = s.turns := rfl
@[simp] theorem State.commitIn_lastRead : (s.commitIn cs g).lastRead = s.lastRead := rfl
@[simp] theorem State.commitIn_races : (s.commitIn cs g).races = s.races := rfl
@[simp] theorem State.commitIn_draws : (s.commitIn cs g).draws = s.draws := rfl

end commitIn

section commitOut

variable (s : State) (cs : List Sample)

@[simp] theorem State.commitOut_status : (s.commitOut cs).status = { s.status with outValid := true } := rfl
@[simp] theorem State.commitOut_srcEn : (s.commitOut cs).srcEn = s.srcEn := rfl
@[simp] theorem State.commitOut_dstEn : (s.commitOut cs).dstEn = s.dstEn := rfl
@[simp] theorem State.commitOut_layout : (s.commitOut cs).layout = s.layout := rfl
@[simp] theorem State.commitOut_frameH : (s.commitOut cs).frameH = s.frameH := rfl
@[simp] theorem State.commitOut_frameW : (s.commitOut cs).frameW = s.frameW := rfl
@[simp] theorem State.commitOut_roiX : (s.commitOut cs).roiX = s.roiX := rfl
@[simp] theorem State.commitOut_roiY : (s.commitOut cs).roiY = s.roiY := rfl
@[simp] theorem State.commitOut_roiW : (s.commitOut cs).roiW = s.roiW := rfl
@[simp] theorem State.commitOut_roiH : (s.commitOut cs).roiH = s.roiH := rfl
@[simp] theorem State.commitOut_srcBase : (s.commitOut cs).srcBase = s.srcBase := rfl
@[simp] theorem State.commitOut_srcLen : (s.commitOut cs).srcLen = s.srcLen := rfl
@[simp] theorem State.commitOut_dstBase : (s.commitOut cs).dstBase = s.dstBase := rfl
@[simp] theorem State.commitOut_dstCap : (s.commitOut cs).dstCap = s.dstCap := rfl
@[simp] theorem State.commitOut_errSeg : (s.commitOut cs).errSeg = s.errSeg := rfl
@[simp] theorem State.commitOut_errExpected : (s.commitOut cs).errExpected = s.errExpected := rfl
@[simp] theorem State.commitOut_errActual : (s.commitOut cs).errActual = s.errActual := rfl
@[simp] theorem State.commitOut_inGeom : (s.commitOut cs).inGeom = s.inGeom := rfl
@[simp] theorem State.commitOut_outGeom : (s.commitOut cs).outGeom = s.inGeom := rfl
@[simp] theorem State.commitOut_bufSel : (s.commitOut cs).bufSel = s.bufSel := rfl
@[simp] theorem State.commitOut_bufIdx : (s.commitOut cs).bufIdx = s.bufIdx := rfl
@[simp] theorem State.commitOut_inCells : (s.commitOut cs).inCells = s.inCells := rfl
@[simp] theorem State.commitOut_outCells : (s.commitOut cs).outCells = overlay cs s.outCells := rfl
@[simp] theorem State.commitOut_pending : (s.commitOut cs).pending = s.pending := rfl
@[simp] theorem State.commitOut_mem : (s.commitOut cs).mem = s.mem := rfl
@[simp] theorem State.commitOut_turns : (s.commitOut cs).turns = s.turns := rfl
@[simp] theorem State.commitOut_lastRead : (s.commitOut cs).lastRead = s.lastRead := rfl
@[simp] theorem State.commitOut_races : (s.commitOut cs).races = s.races := rfl
@[simp] theorem State.commitOut_draws : (s.commitOut cs).draws = s.draws := rfl

end commitOut

section setRoi

variable (s : State) (r : Roi)

@[simp] theorem State.setRoi_status : (s.setRoi r).status = s.status := rfl
@[simp] theorem State.setRoi_srcEn : (s.setRoi r).srcEn = s.srcEn := rfl
@[simp] theorem State.setRoi_dstEn : (s.setRoi r).dstEn = s.dstEn := rfl
@[simp] theorem State.setRoi_layout : (s.setRoi r).layout = s.layout := rfl
@[simp] theorem State.setRoi_frameH : (s.setRoi r).frameH = s.frameH := rfl
@[simp] theorem State.setRoi_frameW : (s.setRoi r).frameW = s.frameW := rfl
@[simp] theorem State.setRoi_roiX : (s.setRoi r).roiX = BitVec.ofInt 32 r.x := rfl
@[simp] theorem State.setRoi_roiY : (s.setRoi r).roiY = BitVec.ofInt 32 r.y := rfl
@[simp] theorem State.setRoi_roiW : (s.setRoi r).roiW = BitVec.ofInt 32 r.w := rfl
@[simp] theorem State.setRoi_roiH : (s.setRoi r).roiH = BitVec.ofInt 32 r.h := rfl
@[simp] theorem State.setRoi_srcBase : (s.setRoi r).srcBase = s.srcBase := rfl
@[simp] theorem State.setRoi_srcLen : (s.setRoi r).srcLen = s.srcLen := rfl
@[simp] theorem State.setRoi_dstBase : (s.setRoi r).dstBase = s.dstBase := rfl
@[simp] theorem State.setRoi_dstCap : (s.setRoi r).dstCap = s.dstCap := rfl
@[simp] theorem State.setRoi_errSeg : (s.setRoi r).errSeg = s.errSeg := rfl
@[simp] theorem State.setRoi_errExpected : (s.setRoi r).errExpected = s.errExpected := rfl
@[simp] theorem State.setRoi_errActual : (s.setRoi r).errActual = s.errActual := rfl
@[simp] theorem State.setRoi_inGeom : (s.setRoi r).inGeom = s.inGeom := rfl
@[simp] theorem State.setRoi_outGeom : (s.setRoi r).outGeom = s.outGeom := rfl
@[simp] theorem State.setRoi_bufSel : (s.setRoi r).bufSel = s.bufSel := rfl
@[simp] theorem State.setRoi_bufIdx : (s.setRoi r).bufIdx = s.bufIdx := rfl
@[simp] theorem State.setRoi_inCells : (s.setRoi r).inCells = s.inCells := rfl
@[simp] theorem State.setRoi_outCells : (s.setRoi r).outCells = s.outCells := rfl
@[simp] theorem State.setRoi_pending : (s.setRoi r).pending = s.pending := rfl
@[simp] theorem State.setRoi_mem : (s.setRoi r).mem = s.mem := rfl
@[simp] theorem State.setRoi_turns : (s.setRoi r).turns = s.turns := rfl
@[simp] theorem State.setRoi_lastRead : (s.setRoi r).lastRead = s.lastRead := rfl
@[simp] theorem State.setRoi_races : (s.setRoi r).races = s.races := rfl
@[simp] theorem State.setRoi_draws : (s.setRoi r).draws = s.draws := rfl

end setRoi

section issue

variable (s : State) (c : Word)

@[simp] theorem State.issue_status : (s.issue c).status = { s.status with busy := true } := rfl
@[simp] theorem State.issue_srcEn : (s.issue c).srcEn = s.srcEn := rfl
@[simp] theorem State.issue_dstEn : (s.issue c).dstEn = s.dstEn := rfl
@[simp] theorem State.issue_layout : (s.issue c).layout = s.layout := rfl
@[simp] theorem State.issue_frameH : (s.issue c).frameH = s.frameH := rfl
@[simp] theorem State.issue_frameW : (s.issue c).frameW = s.frameW := rfl
@[simp] theorem State.issue_roiX : (s.issue c).roiX = s.roiX := rfl
@[simp] theorem State.issue_roiY : (s.issue c).roiY = s.roiY := rfl
@[simp] theorem State.issue_roiW : (s.issue c).roiW = s.roiW := rfl
@[simp] theorem State.issue_roiH : (s.issue c).roiH = s.roiH := rfl
@[simp] theorem State.issue_srcBase : (s.issue c).srcBase = s.srcBase := rfl
@[simp] theorem State.issue_srcLen : (s.issue c).srcLen = s.srcLen := rfl
@[simp] theorem State.issue_dstBase : (s.issue c).dstBase = s.dstBase := rfl
@[simp] theorem State.issue_dstCap : (s.issue c).dstCap = s.dstCap := rfl
@[simp] theorem State.issue_errSeg : (s.issue c).errSeg = s.errSeg := rfl
@[simp] theorem State.issue_errExpected : (s.issue c).errExpected = s.errExpected := rfl
@[simp] theorem State.issue_errActual : (s.issue c).errActual = s.errActual := rfl
@[simp] theorem State.issue_inGeom : (s.issue c).inGeom = s.inGeom := rfl
@[simp] theorem State.issue_outGeom : (s.issue c).outGeom = s.outGeom := rfl
@[simp] theorem State.issue_bufSel : (s.issue c).bufSel = s.bufSel := rfl
@[simp] theorem State.issue_bufIdx : (s.issue c).bufIdx = s.bufIdx := rfl
@[simp] theorem State.issue_inCells : (s.issue c).inCells = s.inCells := rfl
@[simp] theorem State.issue_outCells : (s.issue c).outCells = s.outCells := rfl
@[simp] theorem State.issue_pending : (s.issue c).pending = c := rfl
@[simp] theorem State.issue_mem : (s.issue c).mem = s.mem := rfl
@[simp] theorem State.issue_turns : (s.issue c).turns = s.turns := rfl
@[simp] theorem State.issue_lastRead : (s.issue c).lastRead = s.lastRead := rfl
@[simp] theorem State.issue_races : (s.issue c).races = s.races := rfl
@[simp] theorem State.issue_draws : (s.issue c).draws = s.draws := rfl

end issue

section withTurns

variable (s : State) (ts : List Turn)

@[simp] theorem State.withTurns_status : (s.withTurns ts).status = s.status := rfl
@[simp] theorem State.withTurns_srcEn : (s.withTurns ts).srcEn = s.srcEn := rfl
@[simp] theorem State.withTurns_dstEn : (s.withTurns ts).dstEn = s.dstEn := rfl
@[simp] theorem State.withTurns_layout : (s.withTurns ts).layout = s.layout := rfl
@[simp] theorem State.withTurns_frameH : (s.withTurns ts).frameH = s.frameH := rfl
@[simp] theorem State.withTurns_frameW : (s.withTurns ts).frameW = s.frameW := rfl
@[simp] theorem State.withTurns_roiX : (s.withTurns ts).roiX = s.roiX := rfl
@[simp] theorem State.withTurns_roiY : (s.withTurns ts).roiY = s.roiY := rfl
@[simp] theorem State.withTurns_roiW : (s.withTurns ts).roiW = s.roiW := rfl
@[simp] theorem State.withTurns_roiH : (s.withTurns ts).roiH = s.roiH := rfl
@[simp] theorem State.withTurns_srcBase : (s.withTurns ts).srcBase = s.srcBase := rfl
@[simp] theorem State.withTurns_srcLen : (s.withTurns ts).srcLen = s.srcLen := rfl
@[simp] theorem State.withTurns_dstBase : (s.withTurns ts).dstBase = s.dstBase := rfl
@[simp] theorem State.withTurns_dstCap : (s.withTurns ts).dstCap = s.dstCap := rfl
@[simp] theorem State.withTurns_errSeg : (s.withTurns ts).errSeg = s.errSeg := rfl
@[simp] theorem State.withTurns_errExpected : (s.withTurns ts).errExpected = s.errExpected := rfl
@[simp] theorem State.withTurns_errActual : (s.withTurns ts).errActual = s.errActual := rfl
@[simp] theorem State.withTurns_inGeom : (s.withTurns ts).inGeom = s.inGeom := rfl
@[simp] theorem State.withTurns_outGeom : (s.withTurns ts).outGeom = s.outGeom := rfl
@[simp] theorem State.withTurns_bufSel : (s.withTurns ts).bufSel = s.bufSel := rfl
@[simp] theorem State.withTurns_bufIdx : (s.withTurns ts).bufIdx = s.bufIdx := rfl
@[simp] theorem State.withTurns_inCells : (s.withTurns ts).inCells = s.inCells := rfl
@[simp] theorem State.withTurns_outCells : (s.withTurns ts).outCells = s.outCells := rfl
@[simp] theorem State.withTurns_pending : (s.withTurns ts).pending = s.pending := rfl
@[simp] theorem State.withTurns_mem : (s.withTurns ts).mem = s.mem := rfl
@[simp] theorem State.withTurns_turns : (s.withTurns ts).turns = ts := rfl
@[simp] theorem State.withTurns_lastRead : (s.withTurns ts).lastRead = s.lastRead := rfl
@[simp] theorem State.withTurns_races : (s.withTurns ts).races = s.races := rfl
@[simp] theorem State.withTurns_draws : (s.withTurns ts).draws = s.draws := rfl

end withTurns

section returned

variable (s : State) (v : Word)

@[simp] theorem State.returned_status : (s.returned v).status = s.status := rfl
@[simp] theorem State.returned_srcEn : (s.returned v).srcEn = s.srcEn := rfl
@[simp] theorem State.returned_dstEn : (s.returned v).dstEn = s.dstEn := rfl
@[simp] theorem State.returned_layout : (s.returned v).layout = s.layout := rfl
@[simp] theorem State.returned_frameH : (s.returned v).frameH = s.frameH := rfl
@[simp] theorem State.returned_frameW : (s.returned v).frameW = s.frameW := rfl
@[simp] theorem State.returned_roiX : (s.returned v).roiX = s.roiX := rfl
@[simp] theorem State.returned_roiY : (s.returned v).roiY = s.roiY := rfl
@[simp] theorem State.returned_roiW : (s.returned v).roiW = s.roiW := rfl
@[simp] theorem State.returned_roiH : (s.returned v).roiH = s.roiH := rfl
@[simp] theorem State.returned_srcBase : (s.returned v).srcBase = s.srcBase := rfl
@[simp] theorem State.returned_srcLen : (s.returned v).srcLen = s.srcLen := rfl
@[simp] theorem State.returned_dstBase : (s.returned v).dstBase = s.dstBase := rfl
@[simp] theorem State.returned_dstCap : (s.returned v).dstCap = s.dstCap := rfl
@[simp] theorem State.returned_errSeg : (s.returned v).errSeg = s.errSeg := rfl
@[simp] theorem State.returned_errExpected : (s.returned v).errExpected = s.errExpected := rfl
@[simp] theorem State.returned_errActual : (s.returned v).errActual = s.errActual := rfl
@[simp] theorem State.returned_inGeom : (s.returned v).inGeom = s.inGeom := rfl
@[simp] theorem State.returned_outGeom : (s.returned v).outGeom = s.outGeom := rfl
@[simp] theorem State.returned_bufSel : (s.returned v).bufSel = s.bufSel := rfl
@[simp] theorem State.returned_bufIdx : (s.returned v).bufIdx = s.bufIdx := rfl
@[simp] theorem State.returned_inCells : (s.returned v).inCells = s.inCells := rfl
@[simp] theorem State.returned_outCells : (s.returned v).outCells = s.outCells := rfl
@[simp] theorem State.returned_pending : (s.returned v).pending = s.pending := rfl
@[simp] theorem State.returned_mem : (s.returned v).mem = s.mem := rfl
@[simp] theorem State.returned_turns : (s.returned v).turns = s.turns := rfl
@[simp] theorem State.returned_lastRead : (s.returned v).lastRead = some (.register v) := rfl
@[simp] theorem State.returned_races : (s.returned v).races = s.races := rfl
@[simp] theorem State.returned_draws : (s.returned v).draws = s.draws := rfl

end returned

section raise

variable (s : State) (e : Error)

@[simp] theorem State.raise_status : (s.raise e).status = s.status.failed e.errCode := by cases e <;> rfl
@[simp] theorem State.raise_srcEn : (s.raise e).srcEn = s.srcEn := by cases e <;> rfl
@[simp] theorem State.raise_dstEn : (s.raise e).dstEn = s.dstEn := by cases e <;> rfl
@[simp] theorem State.raise_layout : (s.raise e).layout = s.layout := by cases e <;> rfl
@[simp] theorem State.raise_frameH : (s.raise e).frameH = s.frameH := by cases e <;> rfl
@[simp] theorem State.raise_frameW : (s.raise e).frameW = s.frameW := by cases e <;> rfl
@[simp] theorem State.raise_roiX : (s.raise e).roiX = s.roiX := by cases e <;> rfl
@[simp] theorem State.raise_roiY : (s.raise e).roiY = s.roiY := by cases e <;> rfl
@[simp] theorem State.raise_roiW : (s.raise e).roiW = s.roiW := by cases e <;> rfl
@[simp] theorem State.raise_roiH : (s.raise e).roiH = s.roiH := by cases e <;> rfl
@[simp] theorem State.raise_srcBase : (s.raise e).srcBase = s.srcBase := by cases e <;> rfl
@[simp] theorem State.raise_srcLen : (s.raise e).srcLen = s.srcLen := by cases e <;> rfl
@[simp] theorem State.raise_dstBase : (s.raise e).dstBase = s.dstBase := by cases e <;> rfl
@[simp] theorem State.raise_dstCap : (s.raise e).dstCap = s.dstCap := by cases e <;> rfl
@[simp] theorem State.raise_inGeom : (s.raise e).inGeom = s.inGeom := by cases e <;> rfl
@[simp] theorem State.raise_outGeom : (s.raise e).outGeom = s.outGeom := by cases e <;> rfl
@[simp] theorem State.raise_bufSel : (s.raise e).bufSel = s.bufSel := by cases e <;> rfl
@[simp] theorem State.raise_bufIdx : (s.raise e).bufIdx = s.bufIdx := by cases e <;> rfl
@[simp] theorem State.raise_inCells : (s.raise e).inCells = s.inCells := by cases e <;> rfl
@[simp] theorem State.raise_outCells : (s.raise e).outCells = s.outCells := by cases e <;> rfl
@[simp] theorem State.raise_pending : (s.raise e).pending = s.pending := by cases e <;> rfl
@[simp] theorem State.raise_mem : (s.raise e).mem = s.mem := by cases e <;> rfl
@[simp] theorem State.raise_turns : (s.raise e).turns = s.turns := by cases e <;> rfl
@[simp] theorem State.raise_lastRead : (s.raise e).lastRead = s.lastRead := by cases e <;> rfl
@[simp] theorem State.raise_races : (s.raise e).races = [] := by cases e <;> rfl
@[simp] theorem State.raise_draws : (s.raise e).draws = s.draws := by cases e <;> rfl

end raise

section setCells

variable (s : State) (b : BufSel) (cs : List Sample)

@[simp] theorem State.setCells_status : (s.setCells b cs).status = s.status := by cases b <;> rfl
@[simp] theorem State.setCells_srcEn : (s.setCells b cs).srcEn = s.srcEn := by cases b <;> rfl
@[simp] theorem State.setCells_dstEn : (s.setCells b cs).dstEn = s.dstEn := by cases b <;> rfl
@[simp] theorem State.setCells_layout : (s.setCells b cs).layout = s.layout := by cases b <;> rfl
@[simp] theorem State.setCells_frameH : (s.setCells b cs).frameH = s.frameH := by cases b <;> rfl
@[simp] theorem State.setCells_frameW : (s.setCells b cs).frameW = s.frameW := by cases b <;> rfl
@[simp] theorem State.setCells_roiX : (s.setCells b cs).roiX = s.roiX := by cases b <;> rfl
@[simp] theorem State.setCells_roiY : (s.setCells b cs).roiY = s.roiY := by cases b <;> rfl
@[simp] theorem State.setCells_roiW : (s.setCells b cs).roiW = s.roiW := by cases b <;> rfl
@[simp] theorem State.setCells_roiH : (s.setCells b cs).roiH = s.roiH := by cases b <;> rfl
@[simp] theorem State.setCells_srcBase : (s.setCells b cs).srcBase = s.srcBase := by cases b <;> rfl
@[simp] theorem State.setCells_srcLen : (s.setCells b cs).srcLen = s.srcLen := by cases b <;> rfl
@[simp] theorem State.setCells_dstBase : (s.setCells b cs).dstBase = s.dstBase := by cases b <;> rfl
@[simp] theorem State.setCells_dstCap : (s.setCells b cs).dstCap = s.dstCap := by cases b <;> rfl
@[simp] theorem State.setCells_errSeg : (s.setCells b cs).errSeg = s.errSeg := by cases b <;> rfl
@[simp] theorem State.setCells_errExpected : (s.setCells b cs).errExpected = s.errExpected := by cases b <;> rfl
@[simp] theorem State.setCells_errActual : (s.setCells b cs).errActual = s.errActual := by cases b <;> rfl
@[simp] theorem State.setCells_inGeom : (s.setCells b cs).inGeom = s.inGeom := by cases b <;> rfl
@[simp] theorem State.setCells_outGeom : (s.setCells b cs).outGeom = s.outGeom := by cases b <;> rfl
@[simp] theorem State.setCells_bufSel : (s.setCells b cs).bufSel = s.bufSel := by cases b <;> rfl
@[simp] theorem State.setCells_bufIdx : (s.setCells b cs).bufIdx = s.bufIdx := by cases b <;> rfl
@[simp] theorem State.setCells_pending : (s.setCells b cs).pending = s.pending := by cases b <;> rfl
@[simp] theorem State.setCells_mem : (s.setCells b cs).mem = s.mem := by cases b <;> rfl
@[simp] theorem State.setCells_turns : (s.setCells b cs).turns = s.turns := by cases b <;> rfl
@[simp] theorem State.setCells_lastRead : (s.setCells b cs).lastRead = s.lastRead := by cases b <;> rfl
@[simp] theorem State.setCells_races : (s.setCells b cs).races = s.races := by cases b <;> rfl
@[simp] theorem State.setCells_draws : (s.setCells b cs).draws = s.draws := by cases b <;> rfl
@[simp] theorem State.setCells_inBuf_inCells : (s.setCells .inBuf cs).inCells = overlay cs s.inCells := rfl
@[simp] theorem State.setCells_inBuf_outCells : (s.setCells .inBuf cs).outCells = s.outCells := rfl
@[simp] theorem State.setCells_outBuf_inCells : (s.setCells .outBuf cs).inCells = s.inCells := rfl
@[simp] theorem State.setCells_outBuf_outCells : (s.setCells .outBuf cs).outCells = overlay cs s.outCells := rfl

end setCells

section succeeded

variable (f : Status)

@[simp] theorem Status.succeeded_busy : f.succeeded.busy = false := rfl
@[simp] theorem Status.succeeded_inValid : f.succeeded.inValid = f.inValid := rfl
@[simp] theorem Status.succeeded_outValid : f.succeeded.outValid = f.outValid := rfl
@[simp] theorem Status.succeeded_errSticky : f.succeeded.errSticky = f.errSticky := rfl
@[simp] theorem Status.succeeded_overrun : f.succeeded.overrun = f.overrun := rfl
@[simp] theorem Status.succeeded_errCode : f.succeeded.errCode = .ok := rfl

end succeeded

section failed

variable (f : Status) (e : ErrCode)

@[simp] theorem Status.failed_busy : (f.failed e).busy = false := rfl
@[simp] theorem Status.failed_inValid : (f.failed e).inValid = f.inValid := rfl
@[simp] theorem Status.failed_outValid : (f.failed e).outValid = f.outValid := rfl
@[simp] theorem Status.failed_errSticky : (f.failed e).errSticky = true := rfl
@[simp] theorem Status.failed_overrun : (f.failed e).overrun = f.overrun := rfl
@[simp] theorem Status.failed_errCode : (f.failed e).errCode = e := rfl

end failed

section clear

variable (f : Status) (v : Word)

@[simp] theorem Status.clear_busy : (f.clear v).busy = f.busy := rfl
@[simp] theorem Status.clear_inValid : (f.clear v).inValid = f.inValid := rfl
@[simp] theorem Status.clear_outValid : (f.clear v).outValid = f.outValid := rfl
@[simp] theorem Status.clear_errSticky : (f.clear v).errSticky = (f.errSticky && !v.getLsbD 3) := rfl
@[simp] theorem Status.clear_overrun : (f.clear v).overrun = (f.overrun && !v.getLsbD 4) := rfl
@[simp] theorem Status.clear_errCode : (f.clear v).errCode = f.errCode := rfl

end clear

section ended

variable (f : Status) (e : ErrCode)

@[simp] theorem Status.ended_busy : (f.ended e).busy = false := rfl
@[simp] theorem Status.ended_inValid : (f.ended e).inValid = f.inValid := rfl
@[simp] theorem Status.ended_outValid : (f.ended e).outValid = f.outValid := rfl
@[simp] theorem Status.ended_errSticky : (f.ended e).errSticky = (f.errSticky || decide (e ≠ .ok)) := rfl
@[simp] theorem Status.ended_overrun : (f.ended e).overrun = f.overrun := rfl
@[simp] theorem Status.ended_errCode : (f.ended e).errCode = e := rfl

end ended

end Sys2Proof.Machine
end

