-- ==== Sys2Proof/Laws/Buffers.lean ====
section
/-! SUPPORT. The shared operations over sample buffers, streams and races: what each can do, said once. -/

namespace Sys2Proof.Machine

theorem fitsBuffer_iff (n : Nat) : fitsBuffer n = true ↔ n ≤ bufCap := by
  have : minBufCap ≤ bufCap := Nat.le_add_right _ _
  simp only [fitsBuffer, Bool.or_eq_true, decide_eq_true_eq]
  omega

theorem bufCap_lt : bufCap < 2 ^ 31 := by
  have := Config.bufCapExcess.isLt
  simp only [bufCap, minBufCap]
  omega

theorem frameOk_iff (h w : Nat) : frameOk h w = true ↔ LegalFrame h w := by
  simp only [frameOk, Bool.and_eq_true, decide_eq_true_eq, fitsBuffer_iff, LegalFrame, frameCells]
  tauto

theorem meetsWindow_iff (base n : Nat) : meetsWindow base n = true ↔ MeetsWindow base n := by
  rw [meetsWindow, MeetsWindow, Bool.and_eq_true, bne_iff_ne, decide_eq_true_iff]
  have hw : windowSize = 0x80 := rfl
  constructor
  · rintro ⟨h0, h1, h2⟩
    exact ⟨max base regBase, by omega, by omega, by omega, by omega⟩
  · rintro ⟨a, h1, h2, h3, h4⟩
    omega

theorem regBase_aligned : regBase % 4 = 0 := by simp [regBase]

theorem regBase_window : regBase + windowSize ≤ 2 ^ 32 := by
  have := Config.regBaseQuarter.isLt
  simp only [regBase, windowSize]
  omega

@[simp] theorem overlay_length (new old : List Sample) : (overlay new old).length = max new.length old.length := by
  simp [overlay]; omega

theorem overlay_below (new old : List Sample) {k : Nat} (h : k < new.length) : (overlay new old)[k]? = new[k]? := by
  simp [overlay, List.getElem?_append_left h]

theorem overlay_above (new old : List Sample) {k : Nat} (h : new.length ≤ k) : (overlay new old)[k]? = old[k]? := by
  simp only [overlay, List.getElem?_append_right h, List.getElem?_drop]
  congr 1; omega

theorem overlay_take (new old : List Sample) : (overlay new old).take new.length = new := by
  simp [overlay]

/-- The one way `withCells` goes on. -/
theorem State.withCells_held {s : State} {b : BufSel} (h : s.Held b) (k : List Sample → Out) :
    s.withCells b k = k ((s.cells b).take (s.geom b).cells) := by
  simp only [State.withCells]; exact if_pos h

/-- If `withCells` answers a next state, every meaningful cell was held, and the continuation answered it. -/
theorem State.withCells_next {s t : State} {b : BufSel} {k : List Sample → Out} (h : s.withCells b k = .next t) :
    s.Held b ∧ k ((s.cells b).take (s.geom b).cells) = .next t := by
  simp only [State.withCells] at h
  split at h
  · exact ⟨by assumption, h⟩
  · cases h

/-- A drawn byte is one of the candidates (R232, R236, R237). -/
theorem State.pick_mem (s : State) (k : Nat) (b : Byte) (others : List Byte) : s.pick k b others ∈ b :: others := by
  cases others with
  | nil => simp [State.pick]
  | cons c cs =>
    have hlt : Config.choice s.draws k % ((c :: cs).length + 1) < (b :: c :: cs).length := by
      simpa using Nat.mod_lt _ (Nat.succ_pos _)
    simp only [State.pick, List.getD_eq_getElem?_getD, List.getElem?_eq_getElem hlt, Option.getD_some]
    exact List.getElem_mem _

theorem State.mem_replacedAt (s : State) (a : Nat) (b : Byte) : b ∈ s.replacedAt a ↔ (a, b) ∈ s.races := by
  simp [State.replacedAt]

theorem State.srcByte_mayLoad (s : State) (k : Nat) : s.MayLoad k (s.srcByte k) := by
  rcases List.mem_cons.1 (s.pick_mem k (s.mem.read (s.srcBase.toNat + k)) (s.replacedAt (s.srcBase.toNat + k))) with h | h
  · exact .inl h
  · exact .inr ((s.mem_replacedAt _ _).1 h)

/-- Without a race the source stream is host memory (R61). -/
theorem State.srcByte_of_no_race {s : State} (h : s.races = []) (k : Nat) :
    s.srcByte k = s.mem.read (s.srcBase.toNat + k) := by
  simp [State.srcByte, State.replacedAt, h, State.pick]

@[simp] theorem State.settle_length (s : State) (u : Nat → Bool) (k : Nat) (bs : List Byte) :
    (s.settle u k bs).length = bs.length := by
  induction bs generalizing k with
  | nil => rfl
  | cons b bs ih => simp [State.settle, ih]

/-- The turns still to come do not settle a race. -/
@[simp] theorem State.settle_withTurns (s : State) (ts : List Turn) (u : Nat → Bool) (k : Nat) (bs : List Byte) :
    (s.withTurns ts).settle u k bs = s.settle u k bs := by
  induction bs generalizing k with
  | nil => rfl
  | cons b bs ih => simp only [State.settle, ih]; rfl

/-- A settled byte is the command's, or, where the race is undecided, what memory holds. -/
theorem State.settle_getElem? (s : State) (u : Nat → Bool) (k i : Nat) (bs : List Byte) {b : Byte} (h : bs[i]? = some b) :
    ∃ c, (s.settle u k bs)[i]? = some c ∧
      (c = b ∨ u (s.dstBase.toNat + (k + i)) = true ∧ c = s.mem.read (s.dstBase.toNat + (k + i))) := by
  induction bs generalizing k i with
  | nil => simp at h
  | cons d bs ih =>
    cases i with
    | zero =>
      simp only [List.getElem?_cons_zero, Option.some.injEq] at h
      subst h
      refine ⟨_, rfl, ?_⟩
      simp only [Nat.add_zero]
      split_ifs with hu
      · rcases List.mem_cons.1 (s.pick_mem k d [s.mem.read (s.dstBase.toNat + k)]) with h | h
        · exact .inl h
        · exact .inr ⟨hu, by simpa using h⟩
      · exact .inl rfl
    | succ i =>
      simp only [List.getElem?_cons_succ] at h
      obtain ⟨c, hc, h'⟩ := ih (k + 1) i h
      exact ⟨c, by simpa [State.settle] using hc, by rwa [show k + (i + 1) = k + 1 + i by omega]⟩

@[simp] theorem streamOf_length (cs : List Sample) : (streamOf cs).length = 2 * cs.length := by
  induction cs with
  | nil => rfl
  | cons c cs ih =>
    simp only [streamOf, List.flatMap_cons, List.length_append, List.length_cons] at *
    simp only [cellBytes, ih, List.length_cons, List.length_nil]
    omega

/-- Byte k of a stream of cells is byte k mod 2 of cell k / 2, the low byte first (R62). -/
theorem streamOf_getElem? (cs : List Sample) (k : Nat) : (streamOf cs)[k]? = cs[k / 2]?.map (cellByte · k) := by
  induction cs generalizing k with
  | nil => simp [streamOf]
  | cons c cs ih =>
    have hs : streamOf (c :: cs) = c.extractLsb' 0 8 :: c.extractLsb' 8 8 :: streamOf cs := rfl
    rw [hs]
    match k with
    | 0 => simp [cellByte]
    | 1 => simp [cellByte]
    | k + 2 =>
      have h2 : (k + 2) / 2 = k / 2 + 1 := by omega
      have h3 : ∀ v, cellByte v (k + 2) = cellByte v k := fun v => by
        simp [cellByte, show (k + 2) % 2 = k % 2 by omega]
      simp [ih, h2, h3]

@[simp] theorem State.srcCells_length (s : State) (n : Nat) : (s.srcCells n).length = n := by
  simp [State.srcCells]

theorem State.srcCells_getElem? (s : State) {n k : Nat} (h : k < n) :
    (s.srcCells n)[k]? = some (le16 (s.srcByte (2 * k)) (s.srcByte (2 * k + 1))) := by
  simp [State.srcCells, h]

end Sys2Proof.Machine
end

