-- ==== Sys2Proof/Laws/Planes.lean ====
section
/-! SUPPORT. Plane views, crops, CUBIC and `resample`: sizes, cells and flat fields. -/

namespace Sys2Proof.Machine

/-- The halves of a legal frame's sides. -/
theorem LegalFrame.halves {h w : Nat} (hl : LegalFrame h w) :
    ∃ p q, h = 2 * p ∧ w = 2 * q ∧ 1 ≤ p ∧ 1 ≤ q ∧ h * w = 4 * (p * q) ∧ frameCells h w = 6 * (p * q) ∧
      frameBytes h w = 12 * (p * q) ∧ 6 * (p * q) ≤ bufCap := by
  obtain ⟨h2, w2, he, we, hc⟩ := hl
  obtain ⟨p, rfl⟩ : ∃ p, h = 2 * p := ⟨h / 2, by omega⟩
  obtain ⟨q, rfl⟩ : ∃ q, w = 2 * q := ⟨w / 2, by omega⟩
  have e : 2 * p * (2 * q) = 4 * (p * q) := by ring
  have e3 : 3 * (2 * p) * (2 * q) = 12 * (p * q) := by ring
  rw [e] at hc
  exact ⟨p, q, rfl, rfl, by omega, by omega, e, by rw [frameCells, e]; omega, by rw [frameBytes, e3], by omega⟩

/-- A legal frame's stream has two bytes for each cell (40_codec.md R121). -/
theorem Geometry.Legal.bytes_eq {g : Geometry} (h : g.Legal) : 3 * g.h.toNat * g.w.toNat = 2 * g.cells := by
  obtain ⟨p, q, -, -, -, -, -, hc, hb, -⟩ := LegalFrame.halves h
  simp only [Geometry.cells, hc]
  simp only [frameBytes] at hb
  omega

theorem Geometry.Legal.cells_le {g : Geometry} (h : g.Legal) : g.cells ≤ bufCap := h.2.2.2.2

@[simp] theorem cubic_length (p : Plane) (h w : Nat) : (cubic p h w).length = h * w := by
  unfold cubic; split <;> simp

/-- R146 (d): a flat field stays flat. -/
theorem cubic_flat {p : Plane} {v : Sample} (hne : p.cells ≠ []) (hv : ∀ c ∈ p.cells, c = v) (h w : Nat) :
    cubic p h w = List.replicate (h * w) v := by
  have : flatValue p = some v := by
    unfold flatValue
    cases hc : p.cells with
    | nil => exact absurd hc hne
    | cons d ds =>
      have hd : d = v := hv d (by simp [hc])
      have : ∀ c ∈ ds, c = v := fun c hcm => hv c (by simp [hc, hcm])
      simpa [hd] using this
  simp [cubic, this]

@[simp] theorem interleave_length {us vs : List Sample} (h : us.length = vs.length) :
    (interleave us vs).length = 2 * us.length := by
  induction us generalizing vs with
  | nil => simp [interleave]
  | cons u us ih =>
    cases vs with
    | nil => simp at h
    | cons v vs => simp only [List.length_cons, Nat.add_right_cancel_iff] at h; simp [interleave, ih h]; omega

theorem interleave_even {us vs : List Sample} (h : us.length = vs.length) (k : Nat) :
    (interleave us vs)[2 * k]? = us[k]? := by
  induction us generalizing vs k with
  | nil => simp [interleave]
  | cons u us ih =>
    cases vs with
    | nil => simp at h
    | cons v vs =>
      simp only [List.length_cons, Nat.add_right_cancel_iff] at h
      cases k with
      | zero => simp [interleave]
      | succ k => rw [show 2 * (k + 1) = 2 * k + 1 + 1 by omega]; simp [interleave, ih h]

theorem interleave_odd {us vs : List Sample} (h : us.length = vs.length) (k : Nat) :
    (interleave us vs)[2 * k + 1]? = vs[k]? := by
  induction us generalizing vs k with
  | nil => cases vs <;> simp_all [interleave]
  | cons u us ih =>
    cases vs with
    | nil => simp at h
    | cons v vs =>
      simp only [List.length_cons, Nat.add_right_cancel_iff] at h
      cases k with
      | zero => simp [interleave]
      | succ k => rw [show 2 * (k + 1) + 1 = 2 * k + 1 + 1 + 1 by omega]; simp [interleave, ih h]

/-- The luma plane and both chroma planes of a legal frame fill the buffer exactly (42_resampler.md R145). -/
theorem resample_length {g : Geometry} (h : g.Legal) (cells : List Sample) (r : Roi) :
    (resample cells g r).length = g.cells := by
  obtain ⟨p, q, hp, hq, -, -, e, hc, -, -⟩ := LegalFrame.halves h
  have h1 : g.h.toNat / 2 = p := by omega
  have h2 : g.w.toNat / 2 = q := by omega
  simp only [resample, Geometry.cells, hc, h1, h2, List.length_append, cubic_length, e]
  cases g.layout <;> simp [cubic_length] <;> omega

/-- Row i of a list of rows of equal length. -/
theorem getElem?_flatMap_rows {f : Nat → List Sample} {w : Nat} (hf : ∀ i, (f i).length = w) (h i j : Nat) (hi : i < h)
    (hj : j < w) : ((List.range h).flatMap f)[i * w + j]? = (f i)[j]? := by
  have hlen : ∀ n, ((List.range n).flatMap f).length = n * w := fun n => by
    induction n with
    | zero => simp
    | succ n ih => simp [List.range_succ, ih, hf, Nat.succ_mul]
  induction h with
  | zero => omega
  | succ h ih =>
    rw [List.range_succ, List.flatMap_append]
    by_cases hih : i < h
    · rw [List.getElem?_append_left, ih hih]
      rw [hlen]
      calc i * w + j < i * w + w := by omega
        _ = (i + 1) * w := by ring
        _ ≤ h * w := Nat.mul_le_mul_right w hih
    · have : i = h := by omega
      subst this
      rw [List.getElem?_append_right (by rw [hlen]; omega), hlen]
      simp

/-- A crop that lies inside the list holds, row by row, the cells of its view. -/
theorem crop_cells {cells : List Sample} {idx : Nat → Nat → Nat} {r : Rect}
    (hin : ∀ i j, i < r.h → j < r.w → idx (r.y + i) (r.x + j) < cells.length) :
    (crop cells idx r).cells.length = r.h * r.w ∧
      ∀ i j, i < r.h → j < r.w → (crop cells idx r).cells[i * r.w + j]? = cells[idx (r.y + i) (r.x + j)]? := by
  have hrow : ∀ i, i < r.h → (List.range r.w).filterMap (fun j => cells[idx (r.y + i) (r.x + j)]?) =
      (List.range r.w).map (fun j => cells.getD (idx (r.y + i) (r.x + j)) 0) := fun i hi => by
    rw [← List.filterMap_eq_map]
    apply List.filterMap_congr
    intro j hj
    have := hin i j hi (List.mem_range.1 hj)
    simp [List.getD_eq_getElem?_getD, List.getElem?_eq_getElem this]
  have hcrop : (crop cells idx r).cells =
      (List.range r.h).flatMap fun i => (List.range r.w).map fun j => cells.getD (idx (r.y + i) (r.x + j)) 0 := by
    simp only [crop]
    apply List.flatMap_congr
    intro i hi
    exact hrow i (List.mem_range.1 hi)
  refine ⟨by simp [hcrop], fun i j hi hj => ?_⟩
  have hg := getElem?_flatMap_rows (f := fun i => (List.range r.w).map fun j => cells.getD (idx (r.y + i) (r.x + j)) 0)
    (w := r.w) (fun i => by simp) r.h i j hi hj
  have := hin i j hi hj
  rw [hcrop, hg]
  simp [hj, List.getD_eq_getElem?_getD, List.getElem?_eq_getElem this]

/-- The view of a buffer lies below its meaningful cells (20_memory.md R73). -/
theorem View.index_lt {g : Geometry} (h : g.Legal) {V : View} (hV : V ∈ views g) {a c : Nat} (ha : a < V.rows)
    (hc : c < V.cols) : V.index a c < g.cells := by
  obtain ⟨p, q, hp, hq, -, -, e, hn, -, -⟩ := LegalFrame.halves h
  have h1 : g.h.toNat / 2 = p := by omega
  have h2 : g.w.toNat / 2 = q := by omega
  have key : ∀ m n a c : Nat, a < m → c < n → a * n + c < m * n := fun m n a c ha hc =>
    calc a * n + c < a * n + n := by omega
      _ = (a + 1) * n := by ring
      _ ≤ m * n := Nat.mul_le_mul_right n ha
  simp only [Geometry.cells, hn]
  simp only [views, h1, h2] at hV
  rcases List.mem_cons.1 hV with rfl | hV
  · have := key _ _ _ _ ha hc
    simp only [lumaIndex] at *
    omega
  · cases hl : g.layout <;> simp only [hl, List.mem_cons, List.not_mem_nil, or_false] at hV <;>
      rcases hV with rfl | rfl <;> simp only at ha hc
    · have := key _ _ _ _ ha hc
      simp only [uIndex, h2, e]; omega
    · have := key _ _ _ _ ha hc
      simp only [vIndex, h2, e]; omega
    · have := key _ _ _ _ ha hc
      have e2 : a * g.w.toNat = 2 * (a * q) := by rw [hq]; ring
      simp only [uvIndex, e, e2]; omega
    · have := key _ _ _ _ ha hc
      have e2 : a * g.w.toNat = 2 * (a * q) := by rw [hq]; ring
      simp only [uvIndex, e, e2]; omega

/-- The cells of a resampled plane, through its view (42_resampler.md R142). -/
theorem resample_view {g : Geometry} (h : g.Legal) (cells : List Sample) (r : Roi) {V : View} (hV : V ∈ views g) {a c : Nat}
    (ha : a < V.rows) (hc : c < V.cols) :
    (resample cells g r)[V.index a c]? = (cubic (crop cells V.index (V.rect r)) V.rows V.cols)[a * V.cols + c]? := by
  obtain ⟨p, q, hp, hq, -, -, e, hn, -, -⟩ := LegalFrame.halves h
  have h1 : g.h.toNat / 2 = p := by omega
  have h2 : g.w.toNat / 2 = q := by omega
  have h4 : g.h.toNat * g.w.toNat / 4 = p * q := by omega
  have key : ∀ m n a c : Nat, a < m → c < n → a * n + c < m * n := fun m n a c ha hc =>
    calc a * n + c < a * n + n := by omega
      _ = (a + 1) * n := by ring
      _ ≤ m * n := Nat.mul_le_mul_right n ha
  simp only [views, h1, h2] at hV
  simp only [resample, h1, h2]
  rcases List.mem_cons.1 hV with rfl | hV
  · have := key _ _ _ _ ha hc
    rw [List.getElem?_append_left (by simpa [lumaIndex] using this)]
    rfl
  · cases hl : g.layout <;> simp only [hl, List.mem_cons, List.not_mem_nil, or_false] at hV <;>
      rcases hV with rfl | rfl <;> simp only at ha hc
    · have := key _ _ _ _ ha hc
      rw [List.getElem?_append_right (by simp [uIndex]; omega), List.getElem?_append_left (by simp [uIndex, h2]; omega)]
      simp only [cubic_length, View.rect]
      congr 1
      simp only [uIndex, h2]; omega
    · have := key _ _ _ _ ha hc
      rw [List.getElem?_append_right (by simp [vIndex]; omega), List.getElem?_append_right (by simp [vIndex, h2, h4]; omega)]
      simp only [cubic_length, View.rect]
      congr 1
      simp only [vIndex, h2, h4]; omega
    · have e2 : a * g.w.toNat = 2 * (a * q) := by rw [hq]; ring
      rw [List.getElem?_append_right (by simp [uvIndex]; omega)]
      simp only [cubic_length, View.rect]
      rw [show uvIndex g.h.toNat g.w.toNat 0 a c - g.h.toNat * g.w.toNat = 2 * (a * q + c) by
        simp only [uvIndex, e2]; omega]
      rw [interleave_even (by simp)]
      rfl
    · have e2 : a * g.w.toNat = 2 * (a * q) := by rw [hq]; ring
      rw [List.getElem?_append_right (by simp [uvIndex]; omega)]
      simp only [cubic_length, View.rect]
      rw [show uvIndex g.h.toNat g.w.toNat 1 a c - g.h.toNat * g.w.toNat = 2 * (a * q + c) + 1 by
        simp only [uvIndex, e2]; omega]
      rw [interleave_odd (by simp)]
      rfl

/-- At a ROI that fits, every crop lies inside its plane (42_resampler.md R148). -/
theorem View.rect_inside {g : Geometry} (h : g.Legal) {V : View} (hV : V ∈ views g) {r : Roi} (hr : r.Fits g) :
    2 ≤ (V.rect r).h ∧ 2 ≤ (V.rect r).w ∧ (V.rect r).y + (V.rect r).h < V.rows ∧ (V.rect r).x + (V.rect r).w < V.cols := by
  obtain ⟨h2, w2, he, we, -⟩ := h
  obtain ⟨r1, r2, r3, r4, r5, r6⟩ := hr
  rcases List.mem_cons.1 hV with rfl | hV
  · simp only [View.rect, Roi.luma, Bool.false_eq_true, if_false]
    omega
  · cases hl : g.layout <;> simp only [hl, List.mem_cons, List.not_mem_nil, or_false] at hV <;>
      rcases hV with rfl | rfl <;> simp only [View.rect, Roi.luma, Rect.chroma, if_true] <;> omega

end Sys2Proof.Machine
end

