-- ==== Sys2Proof/Laws/Checks.lean ====
section
/-! SUPPORT. The checks of LOAD, SAVE, ZOOM and the ROI steps: what each means, and what a state that passes it has. -/

namespace Sys2Proof.Machine

theorem State.srcMeetsWindow_false {s : State} (h : ¬ MeetsWindow s.srcBase.toNat s.srcEff) : s.srcMeetsWindow = false := by
  rw [← Bool.not_eq_true]; exact fun h' => h ((meetsWindow_iff _ _).1 h')

theorem State.dstMeetsWindow_false {s : State} (h : ¬ MeetsWindow s.dstBase.toNat s.dstEff) : s.dstMeetsWindow = false := by
  rw [← Bool.not_eq_true]; exact fun h' => h ((meetsWindow_iff _ _).1 h')

/-- A stream ends at the top of the address space at the latest (20_memory.md R61). -/
theorem effectiveLength_le (base len : Word) : base.toNat + effectiveLength base len ≤ 2 ^ 32 := by
  have := base.isLt
  unfold effectiveLength
  omega

theorem layoutOf_code (l : Layout) : layoutOf l.code = some l := by cases l <;> decide

/-- The segments of a legal frame are all filled exactly if the stream is as long as the frame (40_codec.md R112). -/
theorem shortSegment_none_iff {l : Layout} {h w eff : Nat} (hl : LegalFrame h w) :
    shortSegment l h w eff = none ↔ 3 * h * w ≤ eff := by
  obtain ⟨p, q, rfl, rfl, -, -, e, -⟩ := hl.halves
  have e2 : 2 * (2 * p) * (2 * q) = 8 * (p * q) := by ring
  have e3 : 3 * (2 * p) * (2 * q) = 12 * (p * q) := by ring
  rw [shortSegment, List.find?_eq_none]
  cases l <;> simp [segments, Segment.available, e, e2, e3] <;> omega

theorem State.loadCheck_ok {s : State} {l : Layout} (hl : s.layout = l.code)
    (hf : LegalFrame s.frameH.toNat s.frameW.toNat) (he : s.srcEn = true)
    (hb : 3 * s.frameH.toNat * s.frameW.toNat ≤ s.srcEff) : s.loadCheck = .ok ⟨s.frameH, s.frameW, l⟩ := by
  simp [State.loadCheck, hl, layoutOf_code, (frameOk_iff _ _).2 hf, he, (shortSegment_none_iff (l := l) hf).2 hb]

theorem State.loadCheck_short {s : State} {l : Layout} {g : Segment} (hl : s.layout = l.code)
    (hf : LegalFrame s.frameH.toNat s.frameW.toNat) (he : s.srcEn = true)
    (hg : shortSegment l s.frameH.toNat s.frameW.toNat s.srcEff = some g) : s.loadCheck = .error (g.shortRead s.srcEff) := by
  simp [State.loadCheck, hl, layoutOf_code, (frameOk_iff _ _).2 hf, he, hg]

/-- A frame that passes the checks of LOAD is legal. -/
theorem State.loadCheck_legal {s : State} {g : Geometry} (h : s.loadCheck = .ok g) : g.Legal := by
  unfold State.loadCheck at h
  split at h
  · cases h
  · split_ifs at h with hf
    split at h
    · cases h
    · cases h
      exact (frameOk_iff _ _).1 (by simpa using hf)

theorem State.saveCheck_none_iff {s : State} :
    s.saveCheck = none ↔ s.status.outValid = true ∧ s.dstEn = true ∧ 3 * s.outGeom.h.toNat * s.outGeom.w.toNat ≤ s.dstEff := by
  have hb : s.outGeom.bytes = 3 * s.outGeom.h.toNat * s.outGeom.w.toNat := rfl
  unfold State.saveCheck
  rw [hb]
  cases s.status.outValid <;> cases s.dstEn <;> simp

/-- The ROI registers hold a ROI that fits a legal frame exactly (43_roi.md R162: each value fits). -/
theorem State.setRoi_roi {s : State} {r : Roi} (hr : r.Fits s.inGeom) (hl : s.inGeom.Legal) : (s.setRoi r).roi = r := by
  obtain ⟨r1, r2, r3, r4, r5, r6⟩ := hr
  have hcap : s.inGeom.cells ≤ bufCap := hl.cells_le
  have := bufCap_lt
  obtain ⟨p, q, hp, hq, hp1, hq1, -, hc, -, -⟩ := LegalFrame.halves hl
  simp only [Geometry.cells, hc] at hcap
  have b1 : p ≤ p * q := Nat.le_mul_of_pos_right p hq1
  have b2 : q ≤ p * q := Nat.le_mul_of_pos_left q hp1
  have key : ∀ z : Int, 0 ≤ z → z < 2 ^ 31 → (BitVec.ofInt 32 z).toInt = z := fun z h1 h2 => by
    rw [BitVec.toInt_ofInt]; simp [Int.bmod]; omega
  simp only [State.roi, State.setRoi]
  rw [key _ r1 (by omega), key _ r2 (by omega), key _ (by omega) (by omega), key _ (by omega) (by omega)]

/-- A crop at a ROI that fits reads only meaningful cells. -/
theorem crop_take {s : State} (hl : s.inGeom.Legal) {V : View} (hV : V ∈ views s.inGeom) {r : Roi} (hr : r.Fits s.inGeom) :
    crop (s.inCells.take s.inGeom.cells) V.index (V.rect r) = crop s.inCells V.index (V.rect r) := by
  obtain ⟨-, -, h3, h4⟩ := View.rect_inside hl hV hr
  simp only [crop]
  congr 1
  apply List.flatMap_congr
  intro i hi
  apply List.filterMap_congr
  intro j hj
  have := List.mem_range.1 hi
  have := List.mem_range.1 hj
  rw [List.getElem?_take_of_lt]
  exact View.index_lt hl hV (by omega) (by omega)

end Sys2Proof.Machine
end

