-- ==== Sys2Proof/Laws/Exec.lean ====
section
/-! SUPPORT. What each meaning can answer, said once: the inversion of `exec`, and the completion of each family. -/

namespace Sys2Proof.Machine

/-- The staged writes of a command that ends without error, one case for each family (44_control.md R192). -/
inductive Staged : Instr → State → State → Prop
  | nop (s : State) : Staged .nop s s
  | load {i : Instr} {f : Sample → Sample} {s : State} {g : Geometry} (hi : loadedAs i = some f)
      (hw : s.srcMeetsWindow = false) (hc : s.loadCheck = .ok g) :
      Staged i s (s.commitIn ((s.srcCells g.cells).map f) g).drawn
  | save {i : Instr} {f : Sample → Sample} {s : State} (hi : savedAs i = some f) (hw : s.dstMeetsWindow = false)
      (hc : s.saveCheck = none) (hh : s.Held .outBuf) :
      Staged i s { s with mem := s.mem.store s.dstBase.toNat (s.settle (fun a => !(s.replacedAt a).isEmpty) 0
        (streamOf ((s.outCells.take s.outGeom.cells).map f))) }.drawn
  | widen {b : BufSel} {s : State} (hv : s.valid b = true) (hh : s.Held b) :
      Staged (.widen b) s (s.setCells b (((s.cells b).take (s.geom b).cells).map Machine.widen))
  | narrow {b : BufSel} {s : State} (hv : s.valid b = true) (hh : s.Held b) :
      Staged (.narrow b) s (s.setCells b (((s.cells b).take (s.geom b).cells).map Machine.narrow))
  | copy {s : State} (hv : s.status.inValid = true) (hh : s.Held .inBuf) :
      Staged .copy s (s.commitOut (s.inCells.take s.inGeom.cells))
  | zoom {s : State} (hv : s.status.inValid = true) (hr : s.roiFits s.roi = true) (hh : s.Held .inBuf) :
      Staged .zoom s (s.commitOut (resample (s.inCells.take s.inGeom.cells) s.inGeom s.roi))
  | step {i : Instr} {propose : Roi → Roi} {s : State} (hi : roiOf i = some propose) (hz : i ≠ .zoom)
      (hv : s.status.inValid = true) (hr : s.roiFits (propose s.roi) = true) (hh : s.Held .inBuf) :
      Staged i s ((s.setRoi (propose s.roi)).commitOut
        (resample (s.inCells.take s.inGeom.cells) s.inGeom (propose s.roi)))

theorem loadCommand_next {f : Sample → Sample} {s t : State} (h : loadCommand f s = .next t) :
    s.srcMeetsWindow = false ∧ ((∃ e, s.loadCheck = .error e ∧ t = s.raise e) ∨
      ∃ g, s.loadCheck = .ok g ∧ t = (s.commitIn ((s.srcCells g.cells).map f) g).drawn.complete) := by
  unfold loadCommand at h
  split at h
  · cases h
  · rename_i hw
    refine ⟨by simpa using hw, ?_⟩
    cases h
    unfold loadFrame
    cases hc : s.loadCheck with
    | error e => exact .inl ⟨e, rfl, rfl⟩
    | ok g => exact .inr ⟨g, rfl, rfl⟩

theorem saveCommand_next {f : Sample → Sample} {s t : State} (h : saveCommand f s = .next t) :
    s.dstMeetsWindow = false ∧ ((∃ e, s.saveCheck = some e ∧ t = s.raise e) ∨
      s.saveCheck = none ∧ s.Held .outBuf ∧
        t = { s with mem := s.mem.store s.dstBase.toNat (s.settle (fun a => !(s.replacedAt a).isEmpty) 0
          (streamOf ((s.outCells.take s.outGeom.cells).map f))) }.drawn.complete) := by
  unfold saveCommand at h
  split at h
  · cases h
  · rename_i hw
    refine ⟨by simpa using hw, ?_⟩
    unfold saveFrame at h
    cases hc : s.saveCheck with
    | some e => rw [hc] at h; cases h; exact .inl ⟨e, rfl, rfl⟩
    | none =>
      rw [hc] at h
      obtain ⟨hh, h⟩ := State.withCells_next h
      cases h
      exact .inr ⟨rfl, hh, rfl⟩

theorem convertInPlace_next {f : Sample → Sample} {b : BufSel} {s t : State} (h : convertInPlace f b s = .next t) :
    t = s.raise .noData ∨ s.valid b = true ∧ s.Held b ∧
      t = (s.setCells b (((s.cells b).take (s.geom b).cells).map f)).complete := by
  unfold convertInPlace at h
  split at h
  · obtain ⟨hh, h⟩ := State.withCells_next h
    cases h
    exact .inr ⟨by assumption, hh, rfl⟩
  · cases h; exact .inl rfl

theorem execCopy_next {s t : State} (h : execCopy s = .next t) :
    t = s.raise .noData ∨ s.status.inValid = true ∧ s.Held .inBuf ∧
      t = (s.commitOut (s.inCells.take s.inGeom.cells)).complete := by
  unfold execCopy at h
  split at h
  · obtain ⟨hh, h⟩ := State.withCells_next h
    cases h
    exact .inr ⟨by assumption, hh, rfl⟩
  · cases h; exact .inl rfl

theorem execZoom_next {s t : State} (h : execZoom s = .next t) :
    (∃ e, t = s.raise e) ∨ s.status.inValid = true ∧ s.roiFits s.roi = true ∧ s.Held .inBuf ∧
      t = (s.commitOut (resample (s.inCells.take s.inGeom.cells) s.inGeom s.roi)).complete := by
  unfold execZoom at h
  split at h
  · cases h; exact .inl ⟨_, rfl⟩
  · split at h
    · cases h; exact .inl ⟨_, rfl⟩
    · obtain ⟨hh, h⟩ := State.withCells_next h
      cases h
      exact .inr ⟨by simp_all, by simp_all, hh, rfl⟩

theorem roiStep_next {p : Roi → Roi} {s t : State} (h : roiStep p s = .next t) :
    (∃ e, t = s.raise e) ∨ s.status.inValid = true ∧ s.roiFits (p s.roi) = true ∧ s.Held .inBuf ∧
      t = ((s.setRoi (p s.roi)).commitOut (resample (s.inCells.take s.inGeom.cells) s.inGeom (p s.roi))).complete := by
  unfold roiStep at h
  split at h
  · cases h; exact .inl ⟨_, rfl⟩
  · split at h
    · cases h; exact .inl ⟨_, rfl⟩
    · obtain ⟨hh, h⟩ := State.withCells_next h
      cases h
      exact .inr ⟨by simp_all, by simp_all, hh, rfl⟩

/-- What a command can do: raise an error, or complete after its staged writes (R191, R192). -/
theorem exec_next {i : Instr} {s t : State} (h : exec i s = .next t) :
    (∃ e, t = s.raise e) ∨ ∃ u, Staged i s u ∧ t = u.complete := by
  have hload : ∀ f, loadedAs i = some f → loadCommand f s = .next t →
      (∃ e, t = s.raise e) ∨ ∃ u, Staged i s u ∧ t = u.complete := fun f hi h => by
    obtain ⟨hw, ⟨e, -, rfl⟩ | ⟨g, hc, rfl⟩⟩ := loadCommand_next h
    · exact .inl ⟨e, rfl⟩
    · exact .inr ⟨_, .load hi hw hc, rfl⟩
  have hsave : ∀ f, savedAs i = some f → saveCommand f s = .next t →
      (∃ e, t = s.raise e) ∨ ∃ u, Staged i s u ∧ t = u.complete := fun f hi h => by
    obtain ⟨hw, ⟨e, -, rfl⟩ | ⟨hc, hh, rfl⟩⟩ := saveCommand_next h
    · exact .inl ⟨e, rfl⟩
    · exact .inr ⟨_, .save hi hw hc hh, rfl⟩
  have hstep : ∀ p, roiOf i = some p → i ≠ .zoom → roiStep p s = .next t →
      (∃ e, t = s.raise e) ∨ ∃ u, Staged i s u ∧ t = u.complete := fun p hi hz h => by
    obtain he | ⟨hv, hr, hh, rfl⟩ := roiStep_next h
    · exact .inl he
    · exact .inr ⟨_, .step hi hz hv hr hh, rfl⟩
  cases i with
  | nop => cases h; exact .inr ⟨s, .nop s, rfl⟩
  | load => exact hload _ rfl h
  | loadW => exact hload _ rfl h
  | save => exact hsave _ rfl h
  | saveN => exact hsave _ rfl h
  | widen b =>
    obtain rfl | ⟨hv, hh, rfl⟩ := convertInPlace_next h
    · exact .inl ⟨_, rfl⟩
    · exact .inr ⟨_, .widen hv hh, rfl⟩
  | narrow b =>
    obtain rfl | ⟨hv, hh, rfl⟩ := convertInPlace_next h
    · exact .inl ⟨_, rfl⟩
    · exact .inr ⟨_, .narrow hv hh, rfl⟩
  | copy =>
    obtain rfl | ⟨hv, hh, rfl⟩ := execCopy_next h
    · exact .inl ⟨_, rfl⟩
    · exact .inr ⟨_, .copy hv hh, rfl⟩
  | zoom =>
    obtain he | ⟨hv, hr, hh, rfl⟩ := execZoom_next h
    · exact .inl he
    · exact .inr ⟨_, .zoom hv hr hh, rfl⟩
  | zin => exact hstep _ rfl (by simp) h
  | zout => exact hstep _ rfl (by simp) h
  | panl => exact hstep _ rfl (by simp) h
  | panr => exact hstep _ rfl (by simp) h
  | panu => exact hstep _ rfl (by simp) h
  | pand => exact hstep _ rfl (by simp) h

/-! Completion: where each family answers its own next state. -/

theorem exec_of_loadedAs {i : Instr} {f : Sample → Sample} (h : loadedAs i = some f) (s : State) :
    exec i s = loadCommand f s := by
  cases i <;> simp [loadedAs] at h <;> subst h <;> rfl

theorem exec_of_savedAs {i : Instr} {f : Sample → Sample} (h : savedAs i = some f) (s : State) :
    exec i s = saveCommand f s := by
  cases i <;> simp [savedAs] at h <;> subst h <;> rfl

theorem loadCommand_ok {f : Sample → Sample} {s : State} {g : Geometry} (hw : s.srcMeetsWindow = false)
    (hc : s.loadCheck = .ok g) :
    loadCommand f s = .next (s.commitIn ((s.srcCells g.cells).map f) g).drawn.complete := by
  simp [loadCommand, hw, loadFrame, hc]

theorem loadCommand_error {f : Sample → Sample} {s : State} {e : Error} (hw : s.srcMeetsWindow = false)
    (hc : s.loadCheck = .error e) : loadCommand f s = .next (s.raise e) := by
  simp [loadCommand, hw, loadFrame, hc]

theorem saveCommand_error {f : Sample → Sample} {s : State} {e : Error} (hw : s.dstMeetsWindow = false)
    (hc : s.saveCheck = some e) : saveCommand f s = .next (s.raise e) := by
  simp [saveCommand, hw, saveFrame, hc]

theorem saveCommand_ok {f : Sample → Sample} {s : State} (hw : s.dstMeetsWindow = false) (hc : s.saveCheck = none)
    (hh : s.Held .outBuf) :
    saveCommand f s = .next { s with mem := s.mem.store s.dstBase.toNat (s.settle (fun a => !(s.replacedAt a).isEmpty) 0
      (streamOf ((s.outCells.take s.outGeom.cells).map f))) }.drawn.complete := by
  simp only [saveCommand, hw, saveFrame, hc, State.withCells_held hh]
  rfl

theorem convertInPlace_ok {f : Sample → Sample} {b : BufSel} {s : State} (hv : s.valid b = true) (hh : s.Held b) :
    convertInPlace f b s = .next (s.setCells b (((s.cells b).take (s.geom b).cells).map f)).complete := by
  simp [convertInPlace, hv, State.withCells_held hh]

theorem execCopy_ok {s : State} (hv : s.status.inValid = true) (hh : s.Held .inBuf) :
    execCopy s = .next (s.commitOut (s.inCells.take s.inGeom.cells)).complete := by
  simp only [execCopy, hv, State.withCells_held hh]
  rfl

/-- A ROI is valid exactly if it fits (43_roi.md R160). -/
theorem State.roiFits_iff (s : State) (r : Roi) : s.roiFits r = true ↔ r.Fits s.inGeom := by
  simp only [State.roiFits, Roi.valid, Roi.Fits, Bool.not_eq_true', decide_eq_false_iff_not]
  omega

theorem State.zoomAt_eq {s u : State} (h1 : u.inCells = s.inCells) (h2 : u.inGeom = s.inGeom) (hh : s.Held .inBuf) (r : Roi) :
    u.zoomAt r = .next (u.commitOut (resample (s.inCells.take s.inGeom.cells) s.inGeom r)).complete := by
  have : u.Held .inBuf := by simpa [State.Held, State.geom, State.cells, h1, h2] using hh
  simp [State.zoomAt, State.withCells_held this, State.geom, State.cells, h1, h2]

theorem roiStep_ok {p : Roi → Roi} {s : State} (hv : s.status.inValid = true) (hr : s.roiFits (p s.roi) = true)
    (hh : s.Held .inBuf) :
    roiStep p s = .next ((s.setRoi (p s.roi)).commitOut
      (resample (s.inCells.take s.inGeom.cells) s.inGeom (p s.roi))).complete := by
  rw [roiStep, if_neg (by simp [hv]), if_neg (by simp [hr])]
  exact State.zoomAt_eq (s := s) (u := s.setRoi (p s.roi)) rfl rfl hh _

theorem roiStep_invalid {p : Roi → Roi} {s : State} (hv : s.status.inValid = true) (hr : ¬ s.roiFits (p s.roi) = true) :
    roiStep p s = .next (s.raise .invalidRoi) := by
  rw [roiStep, if_neg (by simp [hv]), if_pos (by simpa using hr)]

/-- A ZOOM or a ROI step at a valid ROI. -/
theorem exec_of_roiOf {i : Instr} {p : Roi → Roi} {s : State} (hi : roiOf i = some p) (hv : s.status.inValid = true)
    (hr : (p s.roi).Fits s.inGeom) (hh : s.Held .inBuf) :
    exec i s = .next ((if i = .zoom then s else s.setRoi (p s.roi)).commitOut
      (resample (s.inCells.take s.inGeom.cells) s.inGeom (p s.roi))).complete := by
  have hr' := (s.roiFits_iff _).2 hr
  cases i <;> simp [roiOf] at hi <;> subst hi
  · simp [exec, execZoom, hv, hr', State.zoomAt_eq rfl rfl hh]
  · exact roiStep_ok (p := proposeZin) hv hr' hh
  · exact roiStep_ok (p := proposeZout) hv hr' hh
  · exact roiStep_ok (p := proposePanl) hv hr' hh
  · exact roiStep_ok (p := proposePanr) hv hr' hh
  · exact roiStep_ok (p := proposePanu) hv hr' hh
  · exact roiStep_ok (p := proposePand) hv hr' hh

/-- A ZOOM or a ROI step at a ROI that is not valid. -/
theorem exec_of_roiOf_invalid {i : Instr} {p : Roi → Roi} {s : State} (hi : roiOf i = some p) (hv : s.status.inValid = true)
    (hr : ¬ (p s.roi).Fits s.inGeom) : exec i s = .next (s.raise .invalidRoi) := by
  have hr' : ¬ s.roiFits (p s.roi) = true := fun h => hr ((s.roiFits_iff _).1 h)
  cases i <;> simp [roiOf] at hi <;> subst hi
  · simp [exec, execZoom, hv, hr']
  · exact roiStep_invalid (p := proposeZin) hv hr'
  · exact roiStep_invalid (p := proposeZout) hv hr'
  · exact roiStep_invalid (p := proposePanl) hv hr'
  · exact roiStep_invalid (p := proposePanr) hv hr'
  · exact roiStep_invalid (p := proposePanu) hv hr'
  · exact roiStep_invalid (p := proposePand) hv hr'

/-- The error entry of every error but SHORT_READ (R205). -/
theorem State.raise_eq_rejected (s : State) {e : Error} (h : e.errCode ≠ .shortRead) : s.raise e = s.rejected e.errCode := by
  cases e <;> first | (exact absurd rfl h) | simp [State.raise, State.record, State.rejected, Status.failed, Status.ended, Error.errCode]

end Sys2Proof.Machine
end

