-- ==== Sys2Proof/Laws/Memory.lean ====
section
/-! SUPPORT. Host memory: a read after a write, and every operation keeps the canonical form. -/

namespace Sys2Proof.Machine

theorem Memory.lookup_write_same (m : Memory) (a : Nat) (b : Byte) : (Memory.write m a b).lookup a = some b := by
  induction m with
  | nil => simp [Memory.write, Memory.lookup]
  | cons c m ih =>
    obtain ⟨a', b'⟩ := c
    simp only [Memory.write]
    split_ifs with h1 h2
    · simp [Memory.lookup]
    · simp [Memory.lookup]
    · simp [Memory.lookup, h2, ih]

theorem Memory.lookup_write_other (m : Memory) (a x : Nat) (b : Byte) (hx : x ≠ a) :
    (Memory.write m a b).lookup x = m.lookup x := by
  induction m with
  | nil => simp [Memory.write, Memory.lookup, hx]
  | cons c m ih =>
    obtain ⟨a', b'⟩ := c
    simp only [Memory.write]
    split_ifs with h1 h2
    · simp [Memory.lookup, hx]
    · subst h2; simp [Memory.lookup, hx]
    · simp [Memory.lookup, ih]

/-- The byte written last is the byte read. -/
@[simp] theorem Memory.read_write_same (m : Memory) (a : Nat) (b : Byte) : (Memory.write m a b).read a = b := by
  simp [Memory.read, Memory.lookup_write_same]

/-- A write leaves every other byte alone. -/
theorem Memory.read_write_other (m : Memory) (a x : Nat) (b : Byte) (hx : x ≠ a) :
    (Memory.write m a b).read x = m.read x := by
  simp [Memory.read, Memory.lookup_write_other m a x b hx]

/-- What a run of bytes leaves at an address. -/
theorem Memory.read_store (m : Memory) (a x : Nat) (bs : List Byte) :
    (Memory.store m a bs).read x = if x < a then m.read x else (bs[x - a]?).getD (m.read x) := by
  induction bs generalizing m a with
  | nil => simp [Memory.store]
  | cons b bs ih =>
    rw [Memory.store, ih]
    rcases Nat.lt_trichotomy x a with h | h | h
    · simp [h, Nat.lt_succ_of_lt h, Memory.read_write_other m a x b (Nat.ne_of_lt h)]
    · subst h; simp
    · have h1 : ¬ x < a + 1 := by omega
      have h2 : ¬ x < a := by omega
      obtain ⟨d, rfl⟩ : ∃ d, x = a + 1 + d := ⟨x - (a + 1), by omega⟩
      have h3 : a + 1 + d - a = d + 1 := by omega
      have h4 : a + 1 + d - (a + 1) = d := by omega
      simp [h1, h2, h3, h4, Memory.read_write_other m a _ b (Nat.ne_of_gt h)]

theorem Memory.mem_write {m : Memory} {a : Nat} {b : Byte} {c : Host.Cell} (h : c ∈ Memory.write m a b) :
    c = (a, b) ∨ c ∈ m := by
  induction m with
  | nil => simpa [Memory.write] using h
  | cons d m ih =>
    obtain ⟨a', b'⟩ := d
    simp only [Memory.write] at h
    split_ifs at h with h1 h2
    · simpa using h
    · rcases List.mem_cons.1 h with h | h
      · exact .inl h
      · exact .inr (List.mem_cons_of_mem _ h)
    · rcases List.mem_cons.1 h with h | h
      · exact .inr (h ▸ List.mem_cons_self)
      · exact (ih h).imp id (List.mem_cons_of_mem _)

theorem Memory.wf_nil : Memory.wf [] := by simp [Memory.wf]

/-- A write keeps the canonical form. -/
theorem Memory.wf_write {m : Memory} (hm : m.wf) {a : Nat} (ha : a < 2 ^ 32) (b : Byte) : (Memory.write m a b).wf := by
  refine ⟨fun c hc => ?_, ?_⟩
  · rcases Memory.mem_write hc with rfl | hc
    · exact ha
    · exact hm.1 c hc
  · have hp := hm.2
    clear hm
    induction m with
    | nil => simp [Memory.write]
    | cons d m ih =>
      obtain ⟨a', b'⟩ := d
      rw [List.pairwise_cons] at hp
      simp only [Memory.write]
      split_ifs with h1 h2
      · refine List.pairwise_cons.2 ⟨fun c hc => ?_, List.pairwise_cons.2 hp⟩
        rcases List.mem_cons.1 hc with rfl | hc
        · exact h1
        · exact Nat.lt_trans h1 (hp.1 c hc)
      · subst h2; exact List.pairwise_cons.2 hp
      · refine List.pairwise_cons.2 ⟨fun c hc => ?_, ih hp.2⟩
        rcases Memory.mem_write hc with rfl | hc
        · show a' < a; omega
        · exact hp.1 c hc

/-- A run of bytes below 2^32 keeps the canonical form. -/
theorem Memory.wf_store {m : Memory} (hm : m.wf) {a : Nat} {bs : List Byte} (ha : a + bs.length ≤ 2 ^ 32) :
    (Memory.store m a bs).wf := by
  induction bs generalizing m a with
  | nil => exact hm
  | cons b bs ih =>
    simp only [List.length_cons] at ha
    exact ih (Memory.wf_write hm (by omega) b) (by omega)

theorem State.reset_memory_wf : State.reset.mem.wf := Memory.wf_nil

end Sys2Proof.Machine
end

