-- ==== Sys2Proof/Laws/PerInstr.lean ====
section
/-! SUPPORT. A property of every command as syntax, one lemma for each constructor: its word is in none of the ILLEGAL classes of
spec 30_encoding.md R97. -/

namespace Sys2Proof.Laws.EncodingIsNotIllegal

/-- The word of the command has no reason of R97 to be ILLEGAL. -/
def Statement (i : Instr) : Prop := illFormed? (encode i) = none

theorem nop : Statement .nop := by unfold Statement; decide
theorem load : Statement .load := by unfold Statement; decide
theorem loadW : Statement .loadW := by unfold Statement; decide
theorem save : Statement .save := by unfold Statement; decide
theorem saveN : Statement .saveN := by unfold Statement; decide
theorem widen (b : BufSel) : Statement (.widen b) := by unfold Statement; cases b <;> decide
theorem narrow (b : BufSel) : Statement (.narrow b) := by unfold Statement; cases b <;> decide
theorem copy : Statement .copy := by unfold Statement; decide
theorem zoom : Statement .zoom := by unfold Statement; decide
theorem zin : Statement .zin := by unfold Statement; decide
theorem zout : Statement .zout := by unfold Statement; decide
theorem panl : Statement .panl := by unfold Statement; decide
theorem panr : Statement .panr := by unfold Statement; decide
theorem panu : Statement .panu := by unfold Statement; decide
theorem pand : Statement .pand := by unfold Statement; decide

end Sys2Proof.Laws.EncodingIsNotIllegal
end

