-- ==== Sys2Proof/Laws/Turns.lean ====
section
/-! SUPPORT. The turns: what the block's turn and a host turn can do, said once. -/

namespace Sys2Proof.Machine

theorem step_block (s : State) (rest : List Turn) :
    step (s.withTurns (.block :: rest)) = blockTurn (s.withTurns rest) := rfl

theorem step_host (s : State) (a : HostAction) (rest : List Turn) :
    step (s.withTurns (.host a :: rest)) = hostTurn a (s.withTurns rest) := rfl

/-- A step is the next turn, the list of turns shortened by it (44_control.md R191, R197). -/
theorem step_nextTurn (s : State) :
    step s = match s.nextTurn with
      | .block  => blockTurn (s.withTurns s.turns.tail)
      | .host a => hostTurn a (s.withTurns s.turns.tail) := by
  obtain ⟨_, _, _, _, _, _, _, _, _, _, _, _, _, _, _, _, _, _, _, _, _, _, _, _, _, turns, _, _, _⟩ := s
  cases turns with
  | nil => rfl
  | cons a rest => cases a <;> rfl

/-- What the block's turn can do: nothing while BUSY = 0, else raise an error or complete after the staged writes of the command in
PENDING (44_control.md R191). -/
theorem blockTurn_next {s t : State} (h : blockTurn s = .next t) :
    (s.status.busy = false ∧ t = s) ∨ s.status.busy = true ∧
      ((∃ e, t = s.raise e) ∨ ∃ i u, decode s.pending = .ok i ∧ Staged i s u ∧ t = u.complete) := by
  unfold blockTurn at h
  split at h
  · rename_i hb
    refine .inr ⟨hb, ?_⟩
    split at h
    · rename_i i hd
      obtain ⟨e, rfl⟩ | ⟨u, hu, rfl⟩ := exec_next h
      · exact .inl ⟨e, rfl⟩
      · exact .inr ⟨i, u, hd, hu, rfl⟩
    · cases h; exact .inl ⟨_, rfl⟩
  · rename_i hb
    cases h; exact .inl ⟨by simpa using hb, rfl⟩

/-- The turns still to come are not a command's to change. -/
theorem exec_turns {i : Instr} {s t : State} (h : exec i s = .next t) : t.turns = s.turns := by
  obtain ⟨e, rfl⟩ | ⟨u, hu, rfl⟩ := exec_next h
  · cases e <;> rfl
  · cases hu <;> first | rfl | (rename BufSel => b; cases b <;> rfl)

/-- A host turn other than reset leaves both buffers, their geometry and the VALID bits alone. -/
theorem hostTurn_buffers {a : HostAction} {s t : State} (h : hostTurn a s = .next t) (ha : a ≠ .reset) :
    t.inCells = s.inCells ∧ t.outCells = s.outCells ∧ t.inGeom = s.inGeom ∧ t.outGeom = s.outGeom ∧
      t.status.inValid = s.status.inValid ∧ t.status.outValid = s.status.outValid := by
  cases a with
  | writeReg w o v =>
    simp only [hostTurn] at h
    split at h
    · cases h
      unfold State.hostWrite
      split
      · exact ⟨rfl, rfl, rfl, rfl, rfl, rfl⟩
      · split
        · exact ⟨rfl, rfl, rfl, rfl, rfl, rfl⟩
        · split
          · cases ‹Reg› <;> exact ⟨rfl, rfl, rfl, rfl, rfl, rfl⟩
          · exact ⟨rfl, rfl, rfl, rfl, rfl, rfl⟩
    · cases h
  | readReg w o =>
    simp only [hostTurn] at h
    split at h
    · unfold State.hostRead at h
      split at h
      · cases h; exact ⟨rfl, rfl, rfl, rfl, rfl, rfl⟩
      · split at h
        · cases h; exact ⟨rfl, rfl, rfl, rfl, rfl, rfl⟩
        · split at h
          · cases h; exact ⟨rfl, rfl, rfl, rfl, rfl, rfl⟩
          · cases h
    · cases h
  | writeMem addr b =>
    simp only [hostTurn] at h
    split at h
    · cases h
    · cases h; exact ⟨rfl, rfl, rfl, rfl, rfl, rfl⟩
  | readMem addr =>
    simp only [hostTurn] at h
    split at h
    · cases h
    · cases h
      unfold State.hostLoad
      split <;> exact ⟨rfl, rfl, rfl, rfl, rfl, rfl⟩
  | reset => exact absurd rfl ha

end Sys2Proof.Machine
end

