-- ==== Sys2Proof/Tests/Slice0.lean ====
section
/-! SUPPORT. Tests. The expected words, cells and bytes are those of spec 95_test_vectors.md or follow from them by hand. The second half
shows, for each statement with hypotheses, a state and operands that meet them. -/

namespace Sys2Proof.Machine.Tests

open Sys2Proof Sys2Proof.Machine

/-! Decoding: each word is written out from the fields of R91, from bit 31 down: reserved, STEP, reserved, B, C, OP. -/

theorem test_decode_nop : decode (0#16 ++ 0#4 ++ 0#2 ++ 0#1 ++ 0#1 ++ 0x00#8) = .ok .nop := by decide
theorem test_decode_load : decode (0#16 ++ 0#4 ++ 0#2 ++ 0#1 ++ 0#1 ++ 0x01#8) = .ok .load := by decide
theorem test_decode_loadW : decode (0#16 ++ 0#4 ++ 0#2 ++ 0#1 ++ 1#1 ++ 0x01#8) = .ok .loadW := by decide
theorem test_decode_save : decode (0#16 ++ 0#4 ++ 0#2 ++ 0#1 ++ 0#1 ++ 0x02#8) = .ok .save := by decide
theorem test_decode_saveN : decode (0#16 ++ 0#4 ++ 0#2 ++ 0#1 ++ 1#1 ++ 0x02#8) = .ok .saveN := by decide
theorem test_decode_widen_in : decode (0#16 ++ 0#4 ++ 0#2 ++ 0#1 ++ 0#1 ++ 0x03#8) = .ok (.widen .inBuf) := by decide
theorem test_decode_widen_out : decode (0#16 ++ 0#4 ++ 0#2 ++ 1#1 ++ 0#1 ++ 0x03#8) = .ok (.widen .outBuf) := by decide
theorem test_decode_narrow_in : decode (0#16 ++ 0#4 ++ 0#2 ++ 0#1 ++ 0#1 ++ 0x04#8) = .ok (.narrow .inBuf) := by decide
theorem test_decode_narrow_out : decode (0#16 ++ 0#4 ++ 0#2 ++ 1#1 ++ 0#1 ++ 0x04#8) = .ok (.narrow .outBuf) := by decide
theorem test_decode_copy : decode (0#16 ++ 0#4 ++ 0#2 ++ 0#1 ++ 0#1 ++ 0x05#8) = .ok .copy := by decide
theorem test_decode_zoom : decode (0#16 ++ 0#4 ++ 0#2 ++ 0#1 ++ 0#1 ++ 0x06#8) = .ok .zoom := by decide
theorem test_decode_zin : decode (0#16 ++ 0#4 ++ 0#2 ++ 0#1 ++ 0#1 ++ 0x07#8) = .ok .zin := by decide
theorem test_decode_zout : decode (0#16 ++ 1#4 ++ 0#2 ++ 0#1 ++ 0#1 ++ 0x07#8) = .ok .zout := by decide
theorem test_decode_panl : decode (0#16 ++ 2#4 ++ 0#2 ++ 0#1 ++ 0#1 ++ 0x07#8) = .ok .panl := by decide
theorem test_decode_panr : decode (0#16 ++ 3#4 ++ 0#2 ++ 0#1 ++ 0#1 ++ 0x07#8) = .ok .panr := by decide
theorem test_decode_panu : decode (0#16 ++ 4#4 ++ 0#2 ++ 0#1 ++ 0#1 ++ 0x07#8) = .ok .panu := by decide
theorem test_decode_pand : decode (0#16 ++ 5#4 ++ 0#2 ++ 0#1 ++ 0#1 ++ 0x07#8) = .ok .pand := by decide

/-! Well-formedness: a word that each check of R97 refuses. -/

theorem test_illegal_reserved_bit_10 : decode 0x00000400 = .error .reservedBits := by decide
theorem test_illegal_reserved_bit_16 : decode 0x00010000 = .error .reservedBits := by decide
theorem test_illegal_reserved_bit_31 : decode 0x80000001 = .error .reservedBits := by decide
theorem test_illegal_opcode_8 : decode 0x00000008 = .error .reservedOpcode := by decide
theorem test_illegal_opcode_255 : decode 0x000000FF = .error .reservedOpcode := by decide
theorem test_illegal_step_6 : decode 0x00006007 = .error .reservedStep := by decide
theorem test_illegal_step_15 : decode 0x0000F007 = .error .reservedStep := by decide
theorem test_illegal_stray_convert : decode 0x00000103 = .error .strayConvert := by decide
theorem test_illegal_stray_buffer : decode 0x00000201 = .error .strayBuffer := by decide
theorem test_illegal_stray_step : decode 0x00001006 = .error .strayStep := by decide
theorem test_table_word_zout : decodeTableWord 32 0x1007 = some .zout := by decide
theorem test_table_word_illegal : decodeTableWord 32 0x201 = none := by decide

/-! One step each. -/

/-- A part of the next state, if there is one. -/
def after {α : Type} (o : Out) (f : State → α) : Option α :=
  match o with
  | .next t => some (f t)
  | _       => none

/-- 12 bytes of a 2 × 2 frame at 0x10000000 (spec 95_test_vectors.md, 2.2). -/
def twoByTwo : State :=
  { State.reset with
    frameH := 2, frameW := 2, srcEn := true, dstEn := true
    srcBase := 0x10000000, srcLen := 12, dstBase := 0x20000000, dstCap := 12
    mem := Memory.store [] 0x10000000 [0xFF, 0x03, 0x00, 0x00, 0x40, 0x00, 0x01, 0x00, 0xFF, 0x01, 0x00, 0x02] }

/-- Both buffers hold a 2 × 2 frame. -/
def loaded (ins outs : List Sample) : State :=
  { twoByTwo with
    status := ⟨false, true, true, false, false, .ok⟩
    inGeom := ⟨2, 2, .planar⟩, outGeom := ⟨2, 2, .semiPlanar⟩, inCells := ins, outCells := outs
    roiW := 2, roiH := 2 }

/-- IN holds a flat 24 × 24 frame, and the ROI is (1, 1, 20, 20). -/
def square : State :=
  { State.reset with
    status := ⟨false, true, false, false, false, .ok⟩
    inGeom := ⟨24, 24, .planar⟩, inCells := List.replicate 864 7, roiX := 1, roiY := 1, roiW := 20, roiH := 20 }

theorem test_nop_clears_err_code :
    after (exec .nop { State.reset with status := ⟨true, false, false, true, false, .invalidRoi⟩ }) (·.status.word) =
      some 0x8 := by decide
theorem test_load_cells :
    (loadFrame id twoByTwo).inCells = [0x03FF, 0x0000, 0x0040, 0x0001, 0x01FF, 0x0200] := by decide
theorem test_load_after_reset_raises_open_error :
    after (step (State.reset.withFetchWord 32 0x001)) (·.status.word) = some 0x108 := by decide
theorem test_loadW_cells :
    (loadFrame widen twoByTwo).inCells = [0xFFC0, 0x0000, 0x1000, 0x0040, 0x7FC0, 0x8000] := by decide
theorem test_loadW_cut_stream_is_short :
    let t := loadFrame widen { twoByTwo with srcBase := 0xFFFFFFF8 }
    (t.status.word, t.errSeg, t.errExpected, t.errActual, t.inCells) = (0x208, 1, 2, 0, []) := by decide
theorem test_save_bytes :
    after (saveFrame id (loaded [] [0xFFC0, 0, 0, 0, 0, 0x1234])) (fun t => t.mem.drop 12) =
      some ((List.range 12).zipWith (fun k b => (0x20000000 + k, b)) [0xC0, 0xFF, 0, 0, 0, 0, 0, 0, 0, 0, 0x34, 0x12]) := by
  decide
theorem test_save_without_room :
    after (saveFrame id { loaded [] (List.replicate 6 0) with dstCap := 11 }) (fun t => (t.status.errCode, t.mem.length)) =
      some (.writeError, 12) := by decide
theorem test_saveN_bytes :
    after (saveFrame narrow (loaded [] [0xFFC0, 0x003F, 0x1000, 0x0040, 0x7FFF, 0x8000]))
        (fun t => (t.mem.drop 12).map (·.2)) =
      some [0xFF, 0x03, 0x00, 0x00, 0x40, 0x00, 0x01, 0x00, 0xFF, 0x01, 0x00, 0x02] := by decide
theorem test_saveN_after_reset_raises_no_data :
    after (step (State.reset.withFetchWord 32 0x102)) (·.status.word) = some 0x808 := by decide
theorem test_widen_in :
    after (exec (.widen .inBuf) (loaded [511, 1023, 0, 0, 0, 0] [1, 1, 1, 1, 1, 1])) (fun t => (t.inCells, t.outCells)) =
      some ([32704, 65472, 0, 0, 0, 0], [1, 1, 1, 1, 1, 1]) := by decide
theorem test_narrow_out :
    after (exec (.narrow .outBuf) (loaded [64, 64, 64, 64, 64, 64] [32767, 32704, 63, 64, 65535, 0]))
        (fun t => (t.inCells, t.outCells)) =
      some ([64, 64, 64, 64, 64, 64], [511, 511, 0, 1, 1023, 0]) := by decide
theorem test_copy :
    after (exec .copy (loaded [1, 2, 3, 4, 5, 6] [9, 9, 9, 9, 9, 9, 8])) (fun t => (t.outCells, t.outGeom.layout, t.roi)) =
      some ([1, 2, 3, 4, 5, 6, 8], .planar, ⟨0, 0, 2, 2⟩) := by decide
theorem test_zoom_of_the_full_frame :
    after (exec .zoom (loaded [1, 2, 3, 4, 5, 6] [])) (fun t => (t.status.word, t.outCells)) = some (0x40E, []) := by decide
theorem test_zoom_of_a_flat_frame :
    after (exec .zoom square) (fun t => (t.status.word, t.outCells.take 3)) = some (0x6, [7, 7, 7]) := by decide +kernel
theorem test_zin : after (exec .zin square) State.roi = some ⟨2, 2, 18, 18⟩ := by decide +kernel
theorem test_zin_below_six : after (exec .zin (loaded [1, 2, 3, 4, 5, 6] [])) (·.status.word) = some 0x40E := by decide
theorem test_zout : after (exec .zout square) State.roi = some ⟨0, 0, 22, 22⟩ := by decide +kernel
theorem test_panl : after (exec .panl square) State.roi = some ⟨0, 1, 20, 20⟩ := by decide +kernel
theorem test_panl_rounds_toward_zero : proposePanl ⟨8, 8, -30, 40⟩ = ⟨9, 8, -30, 40⟩ := by decide
theorem test_panr : after (exec .panr square) State.roi = some ⟨2, 1, 20, 20⟩ := by decide +kernel
theorem test_panu : after (exec .panu square) State.roi = some ⟨1, 2, 20, 20⟩ := by decide +kernel
theorem test_pand : after (exec .pand square) State.roi = some ⟨1, 0, 20, 20⟩ := by decide +kernel
theorem test_roi_sum_does_not_wrap : Roi.valid ⟨0x7FFFFFFF, 0, 0x7FFFFFFF, 10⟩ 64 64 = false := by decide
theorem test_roi_largest_extent : Roi.valid ⟨0, 0, 63, 63⟩ 64 64 = true := by decide
theorem test_chroma_roi : Rect.chroma ⟨3, 3, 57, 57⟩ = ⟨1, 1, 28, 28⟩ := by decide
theorem test_illegal_word_raises_unknown_cmd :
    after (step (State.reset.withFetchWord 32 0x008)) (·.status.word) = some 0x608 := by decide
theorem test_write_while_busy_sets_overrun :
    after (hostTurn (.writeReg .word 0x18 5) (State.reset.issue 5)) (fun t => (t.roiX, t.status.word)) = some (0, 0x11) := by
  decide
theorem test_buffer_window_ends_with_the_frame :
    ([5, 6].map fun k => ({ loaded [1, 2, 3, 4, 5, 0x200] [] with bufIdx := k }).bufData) = [some 0x200, some 0] := by decide

/-! Witnesses. -/

/-- A host address from which 0x1000 bytes lie outside the register window, wherever that is. -/
def clear : Word := if regBase < 0x80000000 then 0x90000000 else 0x10000000

theorem clear_cases : (regBase < 0x80000000 ∧ clear = 0x90000000) ∨ (0x80000000 ≤ regBase ∧ clear = 0x10000000) := by
  unfold clear
  split
  · exact .inl ⟨by assumption, rfl⟩
  · exact .inr ⟨by omega, rfl⟩

theorem clear_stream {base len : Word} {k : Nat} (hb : base = clear + BitVec.ofNat 32 k) (hk : k ≤ 0x800)
    (hl : len.toNat ≤ 0x800) :
    effectiveLength base len = len.toNat ∧ ¬ MeetsWindow base.toNat (effectiveLength base len) := by
  subst hb
  have hn : (clear + BitVec.ofNat 32 k).toNat = clear.toNat + k := by
    rcases clear_cases with ⟨-, h⟩ | ⟨-, h⟩ <;> rw [h] <;> simp <;> omega
  rw [effectiveLength, MeetsWindow, hn]
  rcases clear_cases with ⟨hr, h⟩ | ⟨hr, h⟩ <;> rw [h] <;>
    refine ⟨by simp; omega, ?_⟩ <;> rintro ⟨a, h1, h2, h3, h4⟩ <;> simp at h1 h2 <;> omega

theorem legal {h w : Nat} (h1 : 2 ≤ h) (h2 : 2 ≤ w) (h3 : h % 2 = 0) (h4 : w % 2 = 0) (h5 : h * w * 3 / 2 ≤ 18495360) :
    LegalFrame h w :=
  ⟨h1, h2, h3, h4, Nat.le_trans h5 (Nat.le_add_right _ _)⟩

/-- A 2 × 2 frame with its streams clear of the register window, `n` bytes long. -/
def streams (l : Layout) (n : Nat) : State :=
  { State.reset with
    layout := l.code, frameH := 2, frameW := 2, srcEn := true, dstEn := true
    srcBase := clear, srcLen := BitVec.ofNat 32 n, dstBase := clear + 0x100, dstCap := BitVec.ofNat 32 n
    mem := Memory.store [] clear.toNat (List.replicate 12 3) }

theorem streams_src (l : Layout) {n : Nat} (hn : n ≤ 0x800) :
    (streams l n).srcEff = n ∧ ¬ MeetsWindow (streams l n).srcBase.toNat (streams l n).srcEff := by
  have := clear_stream (base := clear) (len := BitVec.ofNat 32 n) (k := 0) (by simp) (by omega) (by simp; omega)
  have h2 : (BitVec.ofNat 32 n).toNat = n := by simp; omega
  exact ⟨this.1.trans h2, this.2⟩

/-- The same with both buffers holding a frame. -/
def full (l : Layout) (n : Nat) : State :=
  { streams l n with
    status := ⟨true, true, true, false, false, .ok⟩
    inGeom := ⟨2, 2, l⟩, outGeom := ⟨2, 2, l⟩, inCells := [1, 2, 3, 4, 5, 6], outCells := [1, 2, 3, 4, 5, 6]
    roiW := 2, roiH := 2 }

theorem full_dst (l : Layout) {n : Nat} (hn : n ≤ 0x800) :
    (full l n).dstEff = n ∧ ¬ MeetsWindow (full l n).dstBase.toNat (full l n).dstEff := by
  have := clear_stream (base := clear + 0x100) (len := BitVec.ofNat 32 n) (k := 0x100) rfl (by omega) (by simp; omega)
  have h2 : (BitVec.ofNat 32 n).toNat = n := by simp; omega
  exact ⟨this.1.trans h2, this.2⟩

theorem full_dst' (l : Layout) {n : Nat} (hn : n ≤ 0x800) :
    ¬ MeetsWindow (streams l n).dstBase.toNat (streams l n).dstEff ∧ (streams l n).dstEff = n :=
  ⟨(full_dst l hn).2, (full_dst l hn).1⟩

theorem two_legal : LegalFrame 2 2 := legal (by omega) (by omega) rfl rfl (by omega)

theorem full_legal (l : Layout) (n : Nat) : (full l n).inGeom.Legal ∧ (full l n).outGeom.Legal := ⟨two_legal, two_legal⟩

theorem two_cells (l : Layout) : Geometry.cells ⟨2, 2, l⟩ = 6 := by cases l <;> decide

theorem full_held (l : Layout) (n : Nat) (b : BufSel) : (full l n).Held b := by
  cases b <;> exact Nat.le_of_eq (two_cells l)

/-- An 8 × 8 flat frame in both buffers, with the ROI (1, 1, 6, 6). -/
def eight (l : Layout) : State :=
  { State.reset with
    status := ⟨false, true, true, false, false, .ok⟩
    inGeom := ⟨8, 8, l⟩, outGeom := ⟨8, 8, l⟩, inCells := List.replicate 96 7, outCells := List.replicate 96 7
    roiX := 1, roiY := 1, roiW := 6, roiH := 6 }

theorem eight_frame : LegalFrame 8 8 := legal (by omega) (by omega) rfl rfl (by omega)

theorem eight_legal (l : Layout) : (eight l).inGeom.Legal := eight_frame

theorem eight_cells (l : Layout) : Geometry.cells ⟨8, 8, l⟩ = 96 := by cases l <;> decide

theorem eight_held (l : Layout) (b : BufSel) : (eight l).Held b := by
  cases b <;> exact (eight_cells l).trans_le (by simp [State.cells, eight])

theorem eight_fits (l : Layout) : (eight l).roi.Fits (eight l).inGeom := by cases l <;> (unfold Roi.Fits; decide)

theorem eight_inv (l : Layout) : (eight l).Inv where
  memory    := ⟨by simp [eight, State.reset], by simp [eight, State.reset]⟩
  inFrame _ := ⟨eight_legal l, eight_held l .inBuf⟩
  outFrame _ := ⟨eight_legal l, eight_held l .outBuf⟩
  outFromIn _ := rfl
  inCap     := (show (eight l).inCells.length = 96 by simp [eight]).trans_le eight_frame.2.2.2.2
  outCap    := (show (eight l).outCells.length = 96 by simp [eight]).trans_le eight_frame.2.2.2.2
  idle _    := rfl

/-- The same with a command pending. -/
def busyEight (l : Layout) (w : Word) : State := { eight l with pending := w, status := ⟨true, true, true, true, true, .ok⟩ }

theorem busyEight_inv (l : Layout) (w : Word) : (busyEight l w).Inv where
  memory    := (eight_inv l).memory
  inFrame _ := ⟨eight_legal l, eight_held l .inBuf⟩
  outFrame _ := ⟨eight_legal l, eight_held l .outBuf⟩
  outFromIn _ := rfl
  inCap     := (eight_inv l).inCap
  outCap    := (eight_inv l).outCap
  idle h    := by cases h

theorem witness_AtMostOneRowMatches :
    ∃ r, opcodeTable[10]? = some r ∧ (0x1007 : Word) &&& r.mask = r.pattern := ⟨_, rfl, by decide⟩
theorem witness_BusyBlockExecutesThePendingCommand :
    (State.reset.issue 0x5007).status.busy = true ∧ decode (State.reset.issue 0x5007).pending = .ok .pand := by decide
theorem witness_IllegalWordRaisesUnknownCmd :
    (State.reset.issue 8).status.busy = true ∧ decode (State.reset.issue 8).pending = .error .reservedOpcode := by decide
/-- IdleBlockChangesNothing, CmdWriteIssuesTheWord, IdleWriteSetsOnlyItsRegister, ReadOnlyRegistersIgnoreWrites,
IdleReadReturnsItsRegister. -/
theorem witness_idle : State.reset.status.busy = false := by decide
/-- WritesWhileBusyAreDropped: CMD, STATUS and the last register. -/
theorem witness_WritesWhileBusyAreDropped :
    (State.reset.issue 5).status.busy = true ∧
      ∀ o ∈ ([0x00, 0x04, 0x64] : List (BitVec 7)), o.toNat % 4 = 0 ∧ o.toNat ≤ 0x64 := by decide
/-- UnmappedOffsets: the first and the last. -/
theorem witness_UnmappedOffsets : ∀ o ∈ ([0x68, 0x7C] : List (BitVec 7)), o.toNat % 4 = 0 ∧ 0x68 ≤ o.toNat := by decide
/-- OnlyAlignedWordAccessesReachTheWindow: the first and the last byte of the window. -/
theorem witness_OnlyAlignedWordAccessesReachTheWindow :
    ∀ k ∈ [0, 0x7F], ∃ addr : Word, addr.toNat = regBase + k ∧ regBase ≤ addr.toNat ∧ addr.toNat < regBase + 0x80 := by
  have := regBase_window
  simp only [windowSize] at this
  intro k hk
  have hk' : k ≤ 0x7F := by
    simp only [List.mem_cons, List.not_mem_nil, or_false] at hk; omega
  have h : (BitVec.ofNat 32 (regBase + k)).toNat = regBase + k := by simp; omega
  exact ⟨BitVec.ofNat 32 (regBase + k), h, by omega, by omega⟩
/-- BufDataShowsTheSelectedCell: the last cell, the first past the frame, and a buffer that is not valid. -/
theorem witness_BufDataShowsTheSelectedCell :
    ∀ k ∈ [95, 96], ({ eight .planar with bufIdx := k }).status.busy = false ∧ ({ eight .planar with bufIdx := k }).Held .inBuf :=
  fun _ _ => ⟨rfl, eight_held .planar .inBuf⟩
theorem witness_BufDataShowsTheSelectedCell_not_valid :
    State.reset.status.busy = false ∧ State.reset.valid State.reset.bufSel = false := by decide
/-- IdleReadReturnsItsRegister: BUF_DATA of a frame has a value. -/
theorem witness_IdleReadReturnsItsRegister :
    (loaded [1, 2, 3, 4, 5, 6] []).status.busy = false ∧ (loaded [1, 2, 3, 4, 5, 6] []).regValue .bufData = some 1 := by decide
theorem witness_ReadsWhileBusy : (State.reset.issue 1).status.busy = true := rfl
/-- HostWriteChangesOneByte and HostReadDuringSaveIsOldOrNew: an address outside the window, idle and busy. -/
theorem witness_host_memory_access :
    ¬ (regBase ≤ clear.toNat ∧ clear.toNat < regBase + 0x80) ∧ (full .planar 12).status.busy = true ∧
      State.reset.status.busy = false := by
  refine ⟨?_, rfl, rfl⟩
  rcases clear_cases with ⟨h, e⟩ | ⟨h, e⟩ <;> rw [e] <;> simp <;> omega
/-- A byte of a pending SAVE that differs from the byte in memory is a candidate of the read. -/
theorem witness_HostReadDuringSaveIsOldOrNew :
    let s := { full .planar 12 with pending := 2 }
    s.status.busy = true ∧ decode s.pending = .ok .save ∧ savedAs .save = some id ∧ s.status.outValid = true ∧
      2 < 2 * s.outGeom.cells ∧ s.outCells[2 / 2]? = some 2 := by
  refine ⟨rfl, by decide, rfl, rfl, ?_, rfl⟩
  show 2 < 2 * Geometry.cells ⟨2, 2, .planar⟩
  rw [two_cells]; omega
theorem witness_ResetDuringSaveLeavesOldOrNewBytes :
    ({ full .planar 12 with pending := 2 }).status.busy = true ∧ State.reset.status.busy = false := ⟨rfl, rfl⟩
/-- CompletionWritesStatus: with no turn left, and with the block's turn in the list. -/
theorem witness_CompletionWritesStatus :
    ∀ ts ∈ [[], [Turn.block, .host .reset]], ((State.reset.issue 0).withTurns ts).status.busy = true ∧
      ((State.reset.issue 0).withTurns ts).nextTurn = .block ∧
      (after (step ((State.reset.issue 0).withTurns ts)) fun _ => true) = some true := by decide
theorem witness_ErrorsArePrecise :
    ∀ ts ∈ [[], [Turn.block, .host .reset]], ((State.reset.issue 8).withTurns ts).status.busy = true ∧
      ((State.reset.issue 8).withTurns ts).nextTurn = .block ∧
      after (step ((State.reset.issue 8).withTurns ts)) (fun t => decide (t.status.errCode ≠ .ok)) = some true := by decide
theorem witness_ErrorsArePrecise_short_read :
    let s := (streams .planar 11).issue 1
    s.status.busy = true ∧ s.nextTurn = .block ∧ ∃ t, step s = .next t ∧ t.status.errCode = .shortRead := by
  intro s
  obtain ⟨he, hm⟩ := streams_src .planar (n := 11) (by omega)
  have hw : s.srcMeetsWindow = false := State.srcMeetsWindow_false hm
  have hc : s.loadCheck = .error (.shortRead 2 2 1) := by
    show (streams .planar 11).loadCheck = .error (.shortRead 2 2 1)
    rw [State.loadCheck_short (s := streams .planar 11) (l := .planar) (g := ⟨2, 10, 2⟩) rfl two_legal rfl (by rw [he]; decide), he]
    decide
  have hd : decode 1#32 = .ok .load := by decide
  have h : step s = loadCommand id s := by
    simp [step, takeTurn, blockTurn, State.issue, hd, exec, execLoad, s, streams, State.reset]
  exact ⟨rfl, rfl, _, h.trans (loadCommand_error hw hc), rfl⟩
theorem witness_CommandsWithoutDataRaiseNoData :
    readsIn .pand = true ∧ State.reset.status.inValid = false ∧ State.reset.valid .outBuf = false ∧
      (full .planar 12 |>.dstEff) = 12 ∧ ¬ MeetsWindow (streams .planar 12).dstBase.toNat (streams .planar 12).dstEff ∧
      (streams .planar 12).status.outValid = false :=
  ⟨rfl, rfl, rfl, (full_dst .planar (by omega)).1, (full_dst' .planar (by omega)).1, rfl⟩
/-- LoadChecksInOrder, where every check passes, for streams one byte short and of the exact length. -/
theorem witness_LoadChecksInOrder :
    ∀ n ∈ [11, 12], loadedAs .loadW = some widen ∧
      ¬ MeetsWindow (streams .planar n).srcBase.toNat (streams .planar n).srcEff ∧ (streams .planar n).srcEff = n ∧
      LegalFrame (streams .planar n).frameH.toNat (streams .planar n).frameW.toNat ∧ (streams .planar n).srcEn = true := by
  intro n hn
  have hn' : n ≤ 0x800 := by simp only [List.mem_cons, List.not_mem_nil, or_false] at hn; omega
  exact ⟨rfl, (streams_src .planar hn').2, (streams_src .planar hn').1, two_legal, rfl⟩
/-- LoadChecksInOrder, where a check fails: an unknown layout, an odd height, no source. -/
theorem witness_LoadChecksInOrder_failing :
    ∃ a b c : State,
      (¬ MeetsWindow a.srcBase.toNat a.srcEff ∧ a.layout = 2) ∧
      (¬ MeetsWindow b.srcBase.toNat b.srcEff ∧ b.layout = 0 ∧ b.frameH = 3) ∧
      (¬ MeetsWindow c.srcBase.toNat c.srcEff ∧ c.layout = 0 ∧ LegalFrame c.frameH.toNat c.frameW.toNat ∧ c.srcEn = false) :=
  have h := (streams_src .planar (n := 12) (by omega)).2
  ⟨{ streams .planar 12 with layout := 2 }, { streams .planar 12 with frameH := 3 },
    { streams .planar 12 with srcEn := false }, ⟨h, rfl⟩, ⟨h, rfl, rfl⟩, ⟨h, rfl, two_legal, rfl⟩⟩
/-- ShortReadReportsTheFirstShortSegment: on both sides of each boundary between two segments, and one byte short of the frame. -/
theorem witness_ShortReadReportsTheFirstShortSegment :
    ∀ l, ∀ n ∈ [0, 7, 8, 9, 10, 11], loadedAs .load = some id ∧
      ¬ MeetsWindow (streams l n).srcBase.toNat (streams l n).srcEff ∧ (streams l n).srcEff = n ∧
      LegalFrame (streams l n).frameH.toNat (streams l n).frameW.toNat ∧ (streams l n).srcEn = true ∧
      (streams l n).layout = l.code ∧ n < 3 * ((streams l n).frameH.toNat * (streams l n).frameW.toNat) := by
  intro l n hn
  have hn' : n ≤ 11 := by simp only [List.mem_cons, List.not_mem_nil, or_false] at hn; omega
  refine ⟨rfl, (streams_src l (by omega)).2, (streams_src l (by omega)).1, two_legal, rfl, rfl, ?_⟩
  show n < 3 * (2 * 2)
  omega
/-- LoadFillsInFromTheStream, for both layouts. -/
theorem witness_LoadFillsInFromTheStream :
    ∀ l, loadedAs .load = some id ∧ ¬ MeetsWindow (streams l 12).srcBase.toNat (streams l 12).srcEff ∧
      (streams l 12).layout = l.code ∧ LegalFrame (streams l 12).frameH.toNat (streams l 12).frameW.toNat ∧
      (streams l 12).srcEn = true ∧
      3 * (streams l 12).frameH.toNat * (streams l 12).frameW.toNat ≤ (streams l 12).srcEff := by
  intro l
  obtain ⟨he, hm⟩ := streams_src l (n := 12) (by omega)
  exact ⟨rfl, hm, rfl, two_legal, rfl, by rw [he]; exact Nat.le_refl 12⟩
theorem witness_LoadThenWidenIsLoadW : ∃ t, exec .load (streams .planar 12) = .next t ∧ t.status.errCode = .ok := by
  obtain ⟨he, hm⟩ := streams_src .planar (n := 12) (by omega)
  have hw : (streams .planar 12).srcMeetsWindow = false := by
    rw [← Bool.not_eq_true]; exact fun h => hm ((meetsWindow_iff _ _).1 h)
  have hc : (streams .planar 12).loadCheck = .ok ⟨2, 2, .planar⟩ := by
    have hl : layoutOf (streams .planar 12).layout = some .planar := rfl
    have hf : frameOk (streams .planar 12).frameH.toNat (streams .planar 12).frameW.toNat = true := by decide
    have hn : (streams .planar 12).srcEn = true := rfl
    have hs : shortSegment .planar 2 2 12 = none := by decide
    simp only [State.loadCheck, hl, hf, hn, he]
    exact rfl
  exact ⟨_, loadCommand_ok (f := id) hw hc, rfl⟩
/-- SaveChecksInOrder: no data, no destination, one byte too little room, and just enough of it. -/
theorem witness_SaveChecksInOrder :
    savedAs .saveN = some narrow ∧
    (¬ MeetsWindow (streams .planar 12).dstBase.toNat (streams .planar 12).dstEff ∧
      (streams .planar 12).status.outValid = false) ∧
    (¬ MeetsWindow ({ full .planar 12 with dstEn := false }).dstBase.toNat ({ full .planar 12 with dstEn := false }).dstEff ∧
      ({ full .planar 12 with dstEn := false }).dstEn = false) ∧
    ∀ n ∈ [11, 12], ¬ MeetsWindow (full .planar n).dstBase.toNat (full .planar n).dstEff ∧ (full .planar n).dstEff = n ∧
      (full .planar n).status.outValid = true ∧ (full .planar n).dstEn = true ∧ (full .planar n).Held .outBuf ∧
      3 * (full .planar n).outGeom.h.toNat * (full .planar n).outGeom.w.toNat = 12 := by
  refine ⟨rfl, ⟨(full_dst' .planar (by omega)).1, rfl⟩, ⟨(full_dst .planar (n := 12) (by omega)).2, rfl⟩, fun n hn => ?_⟩
  have hn' : n ≤ 0x800 := by simp only [List.mem_cons, List.not_mem_nil, or_false] at hn; omega
  exact ⟨(full_dst .planar hn').2, (full_dst .planar hn').1, rfl, rfl, full_held .planar n .outBuf, rfl⟩
/-- SaveWritesExactlyTheStream and NarrowThenSaveWritesWhatSaveNWrites, for both layouts. -/
theorem witness_SaveWritesExactlyTheStream :
    ∀ l, savedAs .save = some id ∧ ¬ MeetsWindow (full l 12).dstBase.toNat (full l 12).dstEff ∧
      (full l 12).status.outValid = true ∧ (full l 12).outGeom.Legal ∧ (full l 12).Held .outBuf ∧ (full l 12).dstEn = true ∧
      3 * (full l 12).outGeom.h.toNat * (full l 12).outGeom.w.toNat ≤ (full l 12).dstEff ∧ (full l 12).races = [] := by
  intro l
  obtain ⟨he, hm⟩ := full_dst l (n := 12) (by omega)
  exact ⟨rfl, hm, rfl, two_legal, full_held l 12 .outBuf, rfl, by rw [he]; exact Nat.le_refl 12, rfl⟩
theorem witness_OnlyASuccessfulSaveWritesMemory :
    (∃ t, exec .nop State.reset = .next t) ∧ ∃ t, exec .copy State.reset = .next t ∧ t.status.errCode ≠ .ok :=
  ⟨⟨_, rfl⟩, ⟨_, rfl, by decide⟩⟩
/-- FrameRoundTrip: a stream whose bytes are all 3, so every cell is 0x303. -/
theorem witness_FrameRoundTrip :
    ∀ l, (streams l 12).layout = l.code ∧ LegalFrame (streams l 12).frameH.toNat (streams l 12).frameW.toNat ∧
      (streams l 12).srcEn = true ∧ (streams l 12).dstEn = true ∧
      ¬ MeetsWindow (streams l 12).srcBase.toNat (streams l 12).srcEff ∧
      ¬ MeetsWindow (streams l 12).dstBase.toNat (streams l 12).dstEff ∧
      3 * (streams l 12).frameH.toNat * (streams l 12).frameW.toNat ≤ (streams l 12).srcEff ∧
      3 * (streams l 12).frameH.toNat * (streams l 12).frameW.toNat ≤ (streams l 12).dstEff ∧ (streams l 12).races = [] ∧
      ∀ k, k < (streams l 12).frameH.toNat * (streams l 12).frameW.toNat * 3 / 2 →
        ((streams l 12).mem.read ((streams l 12).srcBase.toNat + 2 * k + 1)).toNat ≤ 3 := by
  intro l
  obtain ⟨he, hm⟩ := streams_src l (n := 12) (by omega)
  obtain ⟨hm', he'⟩ := full_dst' l (n := 12) (by omega)
  refine ⟨rfl, two_legal, rfl, rfl, hm, hm', by rw [he]; exact Nat.le_refl 12, by rw [he']; exact Nat.le_refl 12, rfl,
    fun k hk => ?_⟩
  have hk' : k < 6 := by change k < 2 * 2 * 3 / 2 at hk; omega
  show ((Memory.store [] clear.toNat (List.replicate 12 3)).read (clear.toNat + 2 * k + 1)).toNat ≤ 3
  rw [Memory.read_store, if_neg (by omega), show clear.toNat + 2 * k + 1 - clear.toNat = 2 * k + 1 by omega,
    List.getElem?_replicate, if_pos (by omega)]
  exact Nat.le_refl 3
theorem witness_WidenAndNarrowMapTheBuffer : ∀ b, (eight .planar).valid b = true ∧ (eight .planar).Held b :=
  fun b => ⟨by cases b <;> rfl, eight_held .planar b⟩
/-- PlaneViewsPartitionTheBuffer: a legal frame, a place of its last view, and its last cell. -/
theorem witness_PlaneViewsPartitionTheBuffer :
    (eight .semiPlanar).inGeom.Legal ∧ (eight .semiPlanar).inGeom.cells = 96 ∧
      ∃ V, (views (eight .semiPlanar).inGeom)[2]? = some V ∧ 3 < V.rows ∧ 3 < V.cols ∧ V.index 3 3 = 95 :=
  ⟨eight_legal _, eight_cells .semiPlanar, _, rfl, by decide, by decide, by decide⟩
theorem witness_CopyMakesOutEqualIn : (eight .planar).status.inValid = true ∧ (eight .planar).Held .inBuf :=
  ⟨rfl, eight_held .planar .inBuf⟩
/-- CropsLieInsideTheirPlanes: every view of a frame at a valid ROI. -/
theorem witness_CropsLieInsideTheirPlanes :
    ∀ l, (eight l).inGeom.Legal ∧ (eight l).inGeom.cells ≤ (eight l).inCells.length ∧ (eight l).roi.Fits (eight l).inGeom ∧
      (views (eight l).inGeom).length = 3 :=
  fun l => ⟨eight_legal l, eight_held l .inBuf, eight_fits l, by cases l <;> rfl⟩
/-- CubicKeepsSizeAndFlatFields: a plane that is flat. -/
theorem witness_CubicKeepsSizeAndFlatFields :
    (⟨1, 2, [5, 5]⟩ : Plane).cells ≠ [] ∧ ∀ c ∈ (⟨1, 2, [5, 5]⟩ : Plane).cells, c = 5 := by simp
/-- AcceptedZoomResamplesEveryPlane, FlatPlanesStayFlat and StepThatProposesTheSameRoiKeepsIt: ZOOM and each step but ZIN and ZOUT keep
the ROI (1, 1, 6, 6), which is valid; the frame is flat. -/
theorem witness_AcceptedZoomResamplesEveryPlane :
    ∀ i ∈ [Instr.zoom, .zout, .panl, .panr, .panu, .pand], ∀ l, ∃ p, roiOf i = some p ∧ (eight l).status.inValid = true ∧
      (eight l).inGeom.Legal ∧ (eight l).Held .inBuf ∧ (p (eight l).roi).Fits (eight l).inGeom ∧
      (eight l).roi.Fits (eight l).inGeom ∧ p (eight l).roi = (eight l).roi := by
  intro i hi l
  have h : ∀ p : Roi → Roi, roiOf i = some p → p (eight l).roi = (eight l).roi → ∃ p, roiOf i = some p ∧
      (eight l).status.inValid = true ∧ (eight l).inGeom.Legal ∧ (eight l).Held .inBuf ∧
      (p (eight l).roi).Fits (eight l).inGeom ∧ (eight l).roi.Fits (eight l).inGeom ∧ p (eight l).roi = (eight l).roi :=
    fun p hp he => ⟨p, hp, rfl, eight_legal l, eight_held l .inBuf, by rw [he]; exact eight_fits l, eight_fits l, he⟩
  simp only [List.mem_cons, List.not_mem_nil, or_false] at hi
  rcases hi with rfl | rfl | rfl | rfl | rfl | rfl <;> exact h _ rfl (by cases l <;> decide)
/-- AcceptedZoomResamplesEveryPlane for ZIN: (1, 1, 6, 6) becomes (1, 1, 5, 5). -/
theorem witness_AcceptedZoomResamplesEveryPlane_zin :
    ∀ l, ∃ p, roiOf .zin = some p ∧ p (eight l).roi = ⟨1, 1, 5, 5⟩ ∧ (p (eight l).roi).Fits (eight l).inGeom := by
  intro l
  refine ⟨_, rfl, by cases l <;> decide, ?_⟩
  cases l <;> (unfold Roi.Fits; decide)
theorem witness_FlatPlanesStayFlat :
    ∀ V ∈ views (eight .semiPlanar).inGeom, ∀ a c, a < V.rows → c < V.cols →
      (eight .semiPlanar).inCells[V.index a c]? = some 7 := by
  have h : ∀ V ∈ views (eight .semiPlanar).inGeom, ∀ a < V.rows, ∀ c < V.cols, V.index a c < 96 := by decide +kernel
  intro V hV a c ha hc
  show (List.replicate 96 7)[V.index a c]? = some 7
  rw [List.getElem?_replicate, if_pos (h V hV a ha c hc)]
/-- InvalidRoiIsRejected: the largest ROI of 8 × 8 is (0, 0, 7, 7), and (1, 1, 7, 7) is one too far. -/
theorem witness_InvalidRoiIsRejected :
    roiOf .zoom = some (fun r => r) ∧ ({ eight .planar with roiW := 7 }).status.inValid = true ∧
      ¬ ({ eight .planar with roiW := 7 }).roi.Fits ({ eight .planar with roiW := 7 }).inGeom :=
  ⟨rfl, rfl, by unfold Roi.Fits; decide⟩
/-- FullFrameIsNeverValid: 2 × 2 and 8 × 8, below and above the bound of 6 × 6. -/
theorem witness_FullFrameIsNeverValid :
    ((full .planar 12).status.inValid = true ∧ (full .planar 12).Held .inBuf ∧ (full .planar 12).inGeom.Legal ∧
      (full .planar 12).roiX = 0 ∧ (full .planar 12).roiY = 0 ∧ (full .planar 12).roiW = (full .planar 12).inGeom.w ∧
      (full .planar 12).roiH = (full .planar 12).inGeom.h) ∧
    ∃ s : State, s.status.inValid = true ∧ s.Held .inBuf ∧ s.inGeom = ⟨8, 8, .planar⟩ ∧ s.inGeom.Legal ∧ s.roiX = 0 ∧
      s.roiY = 0 ∧ s.roiW = s.inGeom.w ∧ s.roiH = s.inGeom.h :=
  ⟨⟨rfl, full_held .planar 12 .inBuf, two_legal, rfl, rfl, rfl, rfl⟩,
    { eight .planar with roiX := 0, roiY := 0, roiW := 8, roiH := 8 }, rfl, eight_held .planar .inBuf, rfl, eight_frame, rfl,
    rfl, rfl, rfl⟩
/-- PlanesOfAZoomAreIndependent: two frames that differ outside one plane's crop, here in OUT and in the cell past the frame. -/
theorem witness_PlanesOfAZoomAreIndependent :
    let s := eight .planar
    let s' := { eight .planar with inCells := List.replicate 96 7 ++ [8], outCells := [] }
    s.status.inValid = true ∧ s'.status.inValid = true ∧ s.inGeom.Legal ∧ s'.inGeom = s.inGeom ∧ s.Held .inBuf ∧
      s'.Held .inBuf ∧ s'.roi = s.roi ∧ s.roi.Fits s.inGeom :=
  ⟨rfl, rfl, eight_legal .planar, rfl, eight_held .planar .inBuf,
    (eight_cells .planar).trans_le (by simp [State.cells]), rfl, eight_fits .planar⟩
/-- EveryStepKeepsTheInvariant, NoStepReadsAnEmptyCell and EveryIssuedCommandCompletes: a state with two valid frames and a command
pending, whose step answers a next state, with no turn left. -/
theorem witness_EveryStepKeepsTheInvariant :
    (busyEight .planar 0).Inv ∧ (busyEight .planar 0).status.busy = true ∧ (busyEight .planar 0).nextTurn = .block ∧
      ∃ t, step (busyEight .planar 0) = .next t :=
  ⟨busyEight_inv .planar 0, rfl, rfl, _, rfl⟩
/-- OnlyTheseTurnsChangeIn and OnlyTheseTurnsChangeOut: a reset clears both VALID bits. -/
theorem witness_OnlyTheseTurnsChangeIn :
    let s := (eight .planar).withTurns [.host .reset]
    ∃ t, step s = .next t ∧ t.status.inValid ≠ s.status.inValid ∧ t.status.outValid ≠ s.status.outValid :=
  ⟨_, rfl, by decide, by decide⟩
/-- OnlyTheseTurnsChangeOut: a COPY sets OUT_VALID, with no turn left. -/
theorem witness_OnlyTheseTurnsChangeOut_copy :
    let s := { busyEight .planar 5 with status := ⟨true, true, false, false, false, .ok⟩ }
    ∃ t, step s = .next t ∧ t.status.outValid ≠ s.status.outValid := by
  intro s
  have hd : decode 5#32 = .ok .copy := by decide
  have h : step s = execCopy s := by
    simp [step, takeTurn, blockTurn, busyEight, eight, State.reset, hd, exec, s]
  exact ⟨_, h.trans (execCopy_ok rfl (eight_held .planar .inBuf)), by simp [s]⟩
/-- StatusBitsAreClearedOnlyAsStated: with every bit set, a step with no turn left and a STATUS write that clears both sticky bits. -/
theorem witness_StatusBitsAreClearedOnlyAsStated :
    (∃ t, step (busyEight .planar 0) = .next t ∧ (busyEight .planar 0).nextTurn ≠ .host .reset ∧ t.status.errSticky = true) ∧
    ∃ t, step ((busyEight .planar 0).withTurns [.host (.writeReg .word 0x04 0x18)]) = .next t ∧
      ((busyEight .planar 0).withTurns [.host (.writeReg .word 0x04 0x18)]).nextTurn ≠ .host .reset ∧
      t.status.errSticky = false ∧ t.status.overrun = false :=
  ⟨⟨_, rfl, by decide, rfl⟩, ⟨_, rfl, by decide, by decide, by decide⟩⟩

end Sys2Proof.Machine.Tests
end

/-! # The state

Reset, the turns of the host and of the block: what each keeps of the state, and the statements of 10_state.md that follow. -/

namespace Sys2Proof.Machine

/-! ## The register window (10_state.md R21 to R34) -/

theorem alignedWord_iff (width : AccessWidth) (o : BitVec 7) :
    alignedWord width o = true ↔ width = .word ∧ o.toNat % 4 = 0 := by
  simp [alignedWord]

/-- A register is found at the offsets of the register map only. -/
theorem regAt_mem {n : Nat} {r : Reg} (h : regAt n = some r) : (n, r) ∈ registerMap := by
  obtain ⟨e, he, rfl⟩ := Option.map_eq_some_iff.1 h
  have hn : e.1 = n := by simpa using List.find?_some he
  exact hn ▸ List.mem_of_find?_eq_some he

/-- An entry of the register map is the one found at its offset. -/
theorem regAt_of_mem {n : Nat} {r : Reg} (h : (n, r) ∈ registerMap) : regAt n = some r :=
  (show ∀ e ∈ registerMap, regAt e.1 = some e.2 by decide) _ h

theorem registerMap_aligned {n : Nat} {r : Reg} (h : (n, r) ∈ registerMap) : n % 4 = 0 :=
  (show ∀ e ∈ registerMap, e.1 % 4 = 0 by decide) _ h

/-- STATUS stands at offset 0x04 alone. -/
theorem regAt_status {n : Nat} (h : regAt n = some .status) : n = 0x04 := by
  simpa [registerMap] using regAt_mem h

@[simp] theorem State.storeReg_mem (s : State) (r : Reg) (v : Word) : (s.storeReg r v).mem = s.mem := by cases r <;> rfl
@[simp] theorem State.storeReg_races (s : State) (r : Reg) (v : Word) : (s.storeReg r v).races = s.races := by
  cases r <;> rfl

/-- What a register write while BUSY = 0 does to STATUS: a STATUS write clears, a CMD write sets BUSY, no other write changes it. -/
theorem State.storeReg_status (s : State) (r : Reg) (v : Word) :
    (s.storeReg r v).status =
      if r = .status then s.status.clear v else if r = .cmd then { s.status with busy := true } else s.status := by
  cases r <;> rfl

theorem State.hostWrite_status {s : State} {n : Nat} (hr : regAt n = some .status) (v : Word) :
    s.hostWrite n v = { s with status := s.status.clear v } := by
  simp only [State.hostWrite, hr, State.storeReg]

theorem State.hostWrite_idle {s : State} {n : Nat} {r : Reg} (hb : s.status.busy = false) (hr : regAt n = some r)
    (v : Word) : s.hostWrite n v = s.storeReg r v := by
  cases r <;> simp [State.hostWrite, hr, hb]

/-- What a host write to the window can do: store to a register, to STATUS at any time and to another while BUSY = 0 only; set OVERRUN
while BUSY = 1; or nothing (R21, R29, R195). -/
theorem State.hostWrite_cases (s : State) (n : Nat) (v : Word) :
    (∃ r, regAt n = some r ∧ (r = .status ∨ s.status.busy = false) ∧ s.hostWrite n v = s.storeReg r v) ∨
      (s.status.busy = true ∧ s.hostWrite n v = { s with status := { s.status with overrun := true } }) ∨
      s.hostWrite n v = s := by
  unfold State.hostWrite
  split
  · exact .inl ⟨.status, by assumption, .inl rfl, rfl⟩
  · split
    · exact .inr (.inl ⟨by assumption, rfl⟩)
    · split
      · exact .inl ⟨_, by assumption, .inr (by simp_all), rfl⟩
      · exact .inr (.inr rfl)

/-- A read while BUSY = 0, or of a register that R196 calls stable, returns the register's value. -/
theorem State.hostRead_value {s : State} {n : Nat} {r : Reg} {v : Word}
    (hb : s.status.busy = false ∨ r.unstable = false) (hr : regAt n = some r) (hv : s.regValue r = some v) :
    s.hostRead n = .next (s.returned v) := by
  have hf : (s.status.busy && r.unstable) = false := Bool.and_eq_false_iff.2 hb
  simp [State.hostRead, hr, hf, hv]

/-- A register read changes the host's last read and the counter of draws only. -/
theorem State.hostRead_next {s t : State} {n : Nat} (h : s.hostRead n = .next t) :
    ∃ x d, t = { s with lastRead := x, draws := d } := by
  unfold State.hostRead at h
  split at h
  · cases h; exact ⟨_, _, rfl⟩
  · split at h
    · cases h; exact ⟨_, _, rfl⟩
    · split at h
      · cases h; exact ⟨_, _, rfl⟩
      · cases h

/-- A register read is refused for its width or its offset only. -/
theorem State.hostRead_ne_refused (s : State) (n : Nat) (r : Refusal) : s.hostRead n ≠ .refused r := by
  unfold State.hostRead
  split
  · simp
  · split
    · simp
    · split <;> simp

/-- Only BUF_DATA can be without a value. -/
theorem State.regValue_isSome {s : State} (h : s.bufData.isSome) (r : Reg) : ∃ v, s.regValue r = some v := by
  cases r with
  | bufData => exact Option.isSome_iff_exists.1 h
  | _ => exact ⟨_, rfl⟩

/-- Where BUF_DATA has a value, every read of the window answers. -/
theorem State.hostRead_answers {s : State} (h : s.bufData.isSome) (n : Nat) : ∃ t, s.hostRead n = .next t := by
  cases hr : regAt n with
  | none => exact ⟨s.returned 0, by simp [State.hostRead, hr]⟩
  | some r =>
    obtain ⟨v, hv⟩ := State.regValue_isSome h r
    simp only [State.hostRead, hr, hv]
    split_ifs
    · exact ⟨_, rfl⟩
    · exact ⟨_, rfl⟩

/-- BUF_DATA where it shows a cell (R34). -/
theorem State.bufData_cell {s : State} (hv : s.valid s.bufSel = true) (hh : s.Held s.bufSel)
    (hi : s.bufIdx.toNat < (s.geom s.bufSel).cells) :
    ∃ c, (s.cells s.bufSel)[s.bufIdx.toNat]? = some c ∧ s.bufData = some (c.setWidth 32) := by
  have hc := List.getElem?_eq_getElem (Nat.lt_of_lt_of_le hi hh)
  exact ⟨_, hc, by simp [State.bufData, hv, hi, hc]⟩

/-- BUF_DATA past the frame or while the buffer is not valid (R34). -/
theorem State.bufData_zero {s : State} (h : ¬ (s.valid s.bufSel = true ∧ s.bufIdx.toNat < (s.geom s.bufSel).cells)) :
    s.bufData = some 0 := by
  rw [State.bufData, if_neg (by simpa using h)]

theorem State.bufData_isSome {s : State} (h : s.valid s.bufSel = true → s.Held s.bufSel) : s.bufData.isSome := by
  by_cases hc : s.valid s.bufSel = true ∧ s.bufIdx.toNat < (s.geom s.bufSel).cells
  · obtain ⟨c, -, hd⟩ := State.bufData_cell hc.1 (h hc.1) hc.2
    simp [hd]
  · simp [State.bufData_zero hc]

/-! ## One turn of the host -/

/-- The next step takes the block's turn or a turn of the host, the list of turns shortened by it. -/
theorem step_cases (s : State) :
    (s.nextTurn = .block ∧ step s = blockTurn (s.withTurns s.turns.tail)) ∨
      ∃ a, s.nextTurn = .host a ∧ step s = hostTurn a (s.withTurns s.turns.tail) := by
  rw [step_nextTurn]
  cases s.nextTurn with
  | block => exact .inl ⟨rfl, rfl⟩
  | host a => exact .inr ⟨a, rfl, rfl⟩

theorem step_writeReg (s : State) (rest : List Turn) {o : BitVec 7} (ho : o.toNat % 4 = 0) (v : Word) :
    step (s.withTurns (.host (.writeReg .word o v) :: rest)) = .next ((s.withTurns rest).hostWrite o.toNat v) := by
  rw [step_host, hostTurn, if_pos ((alignedWord_iff _ _).2 ⟨rfl, ho⟩)]

theorem step_readReg (s : State) (rest : List Turn) {o : BitVec 7} (ho : o.toNat % 4 = 0) :
    step (s.withTurns (.host (.readReg .word o) :: rest)) = (s.withTurns rest).hostRead o.toNat := by
  rw [step_host, hostTurn, if_pos ((alignedWord_iff _ _).2 ⟨rfl, ho⟩)]

/-- A read of host memory changes the host's last read and the counter of draws only. -/
theorem State.hostLoad_eq (s : State) (a : Nat) : ∃ x d, s.hostLoad a = { s with lastRead := x, draws := d } := by
  unfold State.hostLoad
  split <;> exact ⟨_, _, rfl⟩

/-- What a turn of the host or of the platform can do: write to the window, read, write a byte of host memory, or reset. -/
theorem hostTurn_next {a : HostAction} {s t : State} (h : hostTurn a s = .next t) :
    (∃ o v, a = .writeReg .word o v ∧ t = s.hostWrite o.toNat v) ∨
      (∃ x d, t = { s with lastRead := x, draws := d }) ∨
      (∃ (addr : Word) (b : Byte), t = s.hostStore addr.toNat b) ∨
      (a = .reset ∧ t = s.resetBlock) := by
  cases a with
  | writeReg width o v =>
    simp only [hostTurn] at h
    split at h
    · rename_i ha
      obtain ⟨rfl, -⟩ := (alignedWord_iff _ _).1 ha
      cases h
      exact .inl ⟨o, v, rfl, rfl⟩
    · cases h
  | readReg width o =>
    simp only [hostTurn] at h
    split at h
    · exact .inr (.inl (State.hostRead_next h))
    · cases h
  | writeMem addr b =>
    simp only [hostTurn] at h
    split at h
    · cases h
    · cases h; exact .inr (.inr (.inl ⟨addr, b, rfl⟩))
  | readMem addr =>
    simp only [hostTurn] at h
    split at h
    · cases h
    · cases h; exact .inr (.inl (s.hostLoad_eq _))
  | reset => cases h; exact .inr (.inr (.inr ⟨rfl, rfl⟩))

/-! ## What the invariant rests on -/

@[simp] theorem State.held_inBuf (s : State) : s.Held .inBuf ↔ s.inGeom.cells ≤ s.inCells.length := Iff.rfl
@[simp] theorem State.held_outBuf (s : State) : s.Held .outBuf ↔ s.outGeom.cells ≤ s.outCells.length := Iff.rfl

/-- A valid buffer holds its frame. -/
theorem State.Inv.held {s : State} (hs : s.Inv) {b : BufSel} (hv : s.valid b = true) : s.Held b := by
  cases b with
  | inBuf => exact (hs.inFrame hv).2
  | outBuf => exact (hs.outFrame hv).2

/-- No buffer holds more than BUF_CAP cells. -/
theorem State.Inv.cap {s : State} (hs : s.Inv) (b : BufSel) : (s.cells b).length ≤ bufCap := by
  cases b with
  | inBuf => exact hs.inCap
  | outBuf => exact hs.outCap

/-- The invariant rests on the buffers, their geometry, the VALID bits, host memory, BUSY and the races. -/
theorem State.Inv.of_same_buffers {s t : State} (hs : s.Inv)
    (hb : t.inCells = s.inCells ∧ t.outCells = s.outCells ∧ t.inGeom = s.inGeom ∧ t.outGeom = s.outGeom ∧
      t.status.inValid = s.status.inValid ∧ t.status.outValid = s.status.outValid)
    (hm : t.mem.wf) (hi : t.status.busy = false → t.races = []) : t.Inv := by
  obtain ⟨hic, hoc, hig, hog, hiv, hov⟩ := hb
  refine ⟨hm, ?_, ?_, ?_, ?_, ?_, hi⟩
  · simpa [hiv, hig, hic] using hs.inFrame
  · simpa [hov, hog, hoc] using hs.outFrame
  · simpa [hov, hiv] using hs.outFromIn
  · simpa [hic] using hs.inCap
  · simpa [hoc] using hs.outCap

theorem State.Inv.withTurns {s : State} (hs : s.Inv) (ts : List Turn) : (s.withTurns ts).Inv :=
  hs.of_same_buffers ⟨rfl, rfl, rfl, rfl, rfl, rfl⟩ hs.memory hs.idle

theorem State.Inv.drawn {s : State} (hs : s.Inv) : s.drawn.Inv :=
  hs.of_same_buffers ⟨rfl, rfl, rfl, rfl, rfl, rfl⟩ hs.memory hs.idle

theorem State.Inv.setRoi {s : State} (hs : s.Inv) (r : Roi) : (s.setRoi r).Inv :=
  hs.of_same_buffers ⟨rfl, rfl, rfl, rfl, rfl, rfl⟩ hs.memory hs.idle

theorem State.Inv.complete {s : State} (hs : s.Inv) : s.complete.Inv :=
  hs.of_same_buffers ⟨rfl, rfl, rfl, rfl, rfl, rfl⟩ hs.memory (fun _ => rfl)

theorem State.Inv.raise {s : State} (hs : s.Inv) (e : Error) : (s.raise e).Inv :=
  hs.of_same_buffers (by simp) (by simpa using hs.memory) (by simp)

theorem State.Inv.setMem {s : State} (hs : s.Inv) {m : Memory} (hm : m.wf) : State.Inv { s with mem := m } :=
  hs.of_same_buffers ⟨rfl, rfl, rfl, rfl, rfl, rfl⟩ hm hs.idle

/-- Replacing some of the cells that a buffer holds. -/
theorem State.Inv.setCells {s : State} (hs : s.Inv) (b : BufSel) {cs : List Sample}
    (hc : cs.length ≤ (s.cells b).length) : (s.setCells b cs).Inv := by
  have hlen := Nat.max_eq_right hc
  have hcap := hs.cap b
  cases b with
  | inBuf =>
    refine ⟨hs.memory, ?_, hs.outFrame, hs.outFromIn, ?_, hs.outCap, hs.idle⟩
    · intro hv
      obtain ⟨hl, hh⟩ := hs.inFrame hv
      exact ⟨hl, by simpa using .inr hh⟩
    · exact (overlay_length _ _).trans_le (hlen.trans_le hcap)
  | outBuf =>
    refine ⟨hs.memory, hs.inFrame, ?_, hs.outFromIn, hs.inCap, ?_, hs.idle⟩
    · intro hv
      obtain ⟨hl, hh⟩ := hs.outFrame hv
      exact ⟨hl, by simpa using .inr hh⟩
    · exact (overlay_length _ _).trans_le (hlen.trans_le hcap)

/-- A legal frame goes into IN whole (R113). -/
theorem State.Inv.commitIn {s : State} (hs : s.Inv) {g : Geometry} {cs : List Sample} (hg : g.Legal)
    (hc : cs.length = g.cells) : (s.commitIn cs g).Inv := by
  refine ⟨hs.memory, fun _ => ⟨hg, ?_⟩, hs.outFrame, fun _ => rfl, ?_, hs.outCap, hs.idle⟩
  · simp [hc]
  · simpa [hc] using ⟨hg.cells_le, hs.inCap⟩

/-- A frame of IN's geometry goes into OUT whole (R140, R143, R162). -/
theorem State.Inv.commitOut {s : State} (hs : s.Inv) {cs : List Sample} (hv : s.status.inValid = true)
    (hc : cs.length = s.inGeom.cells) : (s.commitOut cs).Inv := by
  obtain ⟨hg, -⟩ := hs.inFrame hv
  refine ⟨hs.memory, hs.inFrame, fun _ => ⟨hg, ?_⟩, fun _ => hv, hs.inCap, ?_, hs.idle⟩
  · simp [hc]
  · simpa [hc] using ⟨hg.cells_le, hs.outCap⟩

/-! ## The stream of a SAVE lies in the address space -/

theorem Geometry.two_cells_le_bytes (g : Geometry) : 2 * g.cells ≤ 3 * g.h.toNat * g.w.toNat := by
  have h : 3 * g.h.toNat * g.w.toNat = g.h.toNat * g.w.toNat * 3 := by ring
  simp only [Geometry.cells, frameCells, h]
  omega

/-- A SAVE that passes its checks writes no byte past the top of the address space (R61, R119). -/
theorem State.stream_fits {s : State} (hc : s.saveCheck = none) (f : Sample → Sample) :
    s.dstBase.toNat + (streamOf ((s.outCells.take s.outGeom.cells).map f)).length ≤ 2 ^ 32 := by
  obtain ⟨-, -, hfit⟩ := State.saveCheck_none_iff.1 hc
  have hcells := s.outGeom.two_cells_le_bytes
  have htop : s.dstBase.toNat + s.dstEff ≤ 2 ^ 32 := effectiveLength_le _ _
  simp only [streamOf_length, List.length_map, List.length_take]
  omega

theorem State.saveImage_fits (s : State) (f : Sample → Sample) :
    s.dstBase.toNat + (s.saveImage f).length ≤ 2 ^ 32 := by
  unfold State.saveImage
  split
  · simpa using s.dstBase.isLt.le
  · exact State.stream_fits (by assumption) f

theorem State.pendingImage_fits (s : State) : s.dstBase.toNat + s.pendingImage.length ≤ 2 ^ 32 := by
  unfold State.pendingImage
  split
  · exact s.saveImage_fits _
  · exact s.saveImage_fits _
  · simpa using s.dstBase.isLt.le

theorem State.memAfterReset_wf {s : State} (hm : s.mem.wf) : s.memAfterReset.wf := by
  unfold State.memAfterReset
  split
  · exact Memory.wf_store hm (by simpa using s.pendingImage_fits)
  · exact hm

/-! ## Every turn keeps the invariant -/

theorem State.resetBlock_inv {s : State} (hm : s.mem.wf) : s.resetBlock.Inv where
  memory    := State.memAfterReset_wf hm
  inFrame h := by cases h
  outFrame h := by cases h
  outFromIn h := by cases h
  inCap     := Nat.zero_le _
  outCap    := Nat.zero_le _
  idle _    := rfl

/-- A write to the window leaves the races alone and never clears BUSY. -/
theorem State.hostWrite_races {s : State} (hi : s.status.busy = false → s.races = []) (n : Nat) (v : Word) :
    (s.hostWrite n v).status.busy = false → (s.hostWrite n v).races = [] := by
  obtain ⟨r, -, -, h⟩ | ⟨-, h⟩ | h := s.hostWrite_cases n v <;> rw [h]
  · rw [State.storeReg_races, State.storeReg_status]
    split_ifs
    · exact hi
    · simp
    · exact hi
  · exact hi
  · exact hi

@[simp] theorem State.hostWrite_mem (s : State) (n : Nat) (v : Word) : (s.hostWrite n v).mem = s.mem := by
  obtain ⟨r, -, -, h⟩ | ⟨-, h⟩ | h := s.hostWrite_cases n v <;> simp [h]

theorem hostTurn_inv {a : HostAction} {s t : State} (hs : s.Inv) (h : hostTurn a s = .next t) : t.Inv := by
  by_cases ha : a = .reset
  · subst ha
    cases h
    exact State.resetBlock_inv hs.memory
  · refine hs.of_same_buffers (hostTurn_buffers h ha) ?_ ?_
    · obtain ⟨o, v, -, rfl⟩ | ⟨x, d, rfl⟩ | ⟨addr, b, rfl⟩ | ⟨hr, -⟩ := hostTurn_next h
      · simpa using hs.memory
      · exact hs.memory
      · exact Memory.wf_write hs.memory addr.isLt b
      · exact absurd hr ha
    · obtain ⟨o, v, -, rfl⟩ | ⟨x, d, rfl⟩ | ⟨addr, b, rfl⟩ | ⟨hr, -⟩ := hostTurn_next h
      · exact State.hostWrite_races hs.idle _ _
      · exact hs.idle
      · intro hb
        have hb' : s.status.busy = false := hb
        simpa [State.hostStore, hb'] using hs.idle hb'
      · exact absurd hr ha

/-- The meaningful cells of a buffer that holds them. -/
theorem State.Held.take_length {s : State} {b : BufSel} (hh : s.Held b) :
    ((s.cells b).take (s.geom b).cells).length = (s.geom b).cells :=
  List.length_take_of_le hh

theorem Staged.inv {i : Instr} {s u : State} (hs : s.Inv) (h : Staged i s u) : u.Inv := by
  cases h with
  | nop => exact hs
  | load _ _ hc => exact (hs.commitIn (State.loadCheck_legal hc) (by simp)).drawn
  | save _ _ hc _ =>
    exact (hs.setMem (Memory.wf_store hs.memory (by rw [State.settle_length]; exact State.stream_fits hc _))).drawn
  | widen _ hh => exact hs.setCells _ (by simp)
  | narrow _ hh => exact hs.setCells _ (by simp)
  | copy hv hh => exact hs.commitOut hv hh.take_length
  | zoom hv _ _ => exact hs.commitOut hv (resample_length (hs.inFrame hv).1 _ _)
  | step _ _ hv _ _ => exact (hs.setRoi _).commitOut hv (resample_length (hs.inFrame hv).1 _ _)

theorem blockTurn_inv {s t : State} (hs : s.Inv) (h : blockTurn s = .next t) : t.Inv := by
  obtain ⟨-, rfl⟩ | ⟨-, ⟨e, rfl⟩ | ⟨i, u, -, hu, rfl⟩⟩ := blockTurn_next h
  · exact hs
  · exact hs.raise e
  · exact (hu.inv hs).complete

/-- Settles O52: the invariant is kept by the block's turn and by each turn of the host. -/
theorem everyStepKeepsTheInvariant : Obligations.EveryStepKeepsTheInvariant := by
  intro s t hs h
  obtain ⟨-, hstep⟩ | ⟨a, -, hstep⟩ := step_cases s <;> rw [hstep] at h
  · exact blockTurn_inv (hs.withTurns _) h
  · exact hostTurn_inv (hs.withTurns _) h

/-! ## No turn faults -/

theorem loadCommand_answers (f : Sample → Sample) (s : State) :
    (∃ t, loadCommand f s = .next t) ∨ loadCommand f s = .refused .streamOverlapsWindow := by
  unfold loadCommand
  split_ifs
  · exact .inr rfl
  · exact .inl ⟨_, rfl⟩

theorem saveCommand_answers {s : State} (hs : s.Inv) (f : Sample → Sample) :
    (∃ t, saveCommand f s = .next t) ∨ saveCommand f s = .refused .streamOverlapsWindow := by
  cases hw : s.dstMeetsWindow with
  | true => exact .inr (by simp [saveCommand, hw])
  | false =>
    cases hc : s.saveCheck with
    | some e => exact .inl ⟨_, saveCommand_error hw hc⟩
    | none =>
      obtain ⟨hv, -, -⟩ := State.saveCheck_none_iff.1 hc
      exact .inl ⟨_, saveCommand_ok hw hc (hs.outFrame hv).2⟩

theorem convertInPlace_answers {s : State} (hs : s.Inv) (f : Sample → Sample) (b : BufSel) :
    ∃ t, convertInPlace f b s = .next t := by
  by_cases hv : s.valid b = true
  · exact ⟨_, convertInPlace_ok hv (hs.held hv)⟩
  · exact ⟨_, if_neg hv⟩

theorem execCopy_answers {s : State} (hs : s.Inv) : ∃ t, execCopy s = .next t := by
  by_cases hv : s.status.inValid = true
  · exact ⟨_, execCopy_ok hv (hs.inFrame hv).2⟩
  · exact ⟨_, if_neg hv⟩

theorem exec_of_roiOf_noData {i : Instr} {p : Roi → Roi} {s : State} (hi : roiOf i = some p)
    (hv : s.status.inValid = false) : exec i s = .next (s.raise .noData) := by
  cases i <;> simp [roiOf] at hi <;> exact if_pos (by simp [hv])

theorem exec_of_roiOf_answers {i : Instr} {p : Roi → Roi} {s : State} (hs : s.Inv) (hi : roiOf i = some p) :
    ∃ t, exec i s = .next t := by
  cases hv : s.status.inValid with
  | false => exact ⟨_, exec_of_roiOf_noData hi hv⟩
  | true =>
    by_cases hr : (p s.roi).Fits s.inGeom
    · exact ⟨_, exec_of_roiOf hi hv hr (hs.inFrame hv).2⟩
    · exact ⟨_, exec_of_roiOf_invalid hi hv hr⟩

/-- Under the invariant every command answers a next state, or is refused because its stream meets the register window. -/
theorem exec_answers {s : State} (hs : s.Inv) (i : Instr) :
    (∃ t, exec i s = .next t) ∨ exec i s = .refused .streamOverlapsWindow := by
  cases i with
  | nop => exact .inl ⟨_, rfl⟩
  | load => exact loadCommand_answers id s
  | loadW => exact loadCommand_answers Machine.widen s
  | save => exact saveCommand_answers hs id
  | saveN => exact saveCommand_answers hs Machine.narrow
  | widen b => exact .inl (convertInPlace_answers hs Machine.widen b)
  | narrow b => exact .inl (convertInPlace_answers hs Machine.narrow b)
  | copy => exact .inl (execCopy_answers hs)
  | zoom | zin | zout | panl | panr | panu | pand => exact .inl (exec_of_roiOf_answers hs rfl)

/-- Under the invariant the block's turn answers a next state, or is refused because a stream meets the register window. -/
theorem blockTurn_answers {s : State} (hs : s.Inv) :
    (∃ t, blockTurn s = .next t) ∨ blockTurn s = .refused .streamOverlapsWindow := by
  unfold blockTurn
  split
  · split
    · exact exec_answers hs _
    · exact .inl ⟨_, rfl⟩
  · exact .inl ⟨_, rfl⟩

/-- Under the invariant a turn of the host answers a next state or is refused (R22). -/
theorem hostTurn_answers {s : State} (hs : s.Inv) (a : HostAction) :
    (∃ t, hostTurn a s = .next t) ∨ hostTurn a s = .refused .badRegisterAccess := by
  cases a with
  | writeReg width o v =>
    simp only [hostTurn]
    split_ifs
    · exact .inl ⟨_, rfl⟩
    · exact .inr rfl
  | readReg width o =>
    simp only [hostTurn]
    split_ifs
    · exact .inl (State.hostRead_answers (State.bufData_isSome hs.held) _)
    · exact .inr rfl
  | writeMem addr b =>
    simp only [hostTurn]
    split_ifs
    · exact .inr rfl
    · exact .inl ⟨_, rfl⟩
  | readMem addr =>
    simp only [hostTurn]
    split_ifs
    · exact .inr rfl
    · exact .inl ⟨_, rfl⟩
  | reset => exact .inl ⟨_, rfl⟩

/-- Settles O53: under the invariant every turn answers a next state or a refusal, so none faults. -/
theorem noStepReadsAnEmptyCell : Obligations.NoStepReadsAnEmptyCell := by
  intro s r hs
  obtain ⟨-, hstep⟩ | ⟨a, -, hstep⟩ := step_cases s <;> rw [hstep]
  · obtain ⟨t, ht⟩ | ht := blockTurn_answers (hs.withTurns s.turns.tail) <;> simp [ht]
  · obtain ⟨t, ht⟩ | ht := hostTurn_answers (hs.withTurns s.turns.tail) a <;> simp [ht]

/-! ## Which turns change a buffer (10_state.md R35) -/

/-- The part of the state that belongs to IN is the same. -/
def State.SameIn (s t : State) : Prop :=
  t.inCells = s.inCells ∧ t.inGeom = s.inGeom ∧ t.status.inValid = s.status.inValid

/-- The part of the state that belongs to OUT is the same. -/
def State.SameOut (s t : State) : Prop :=
  t.outCells = s.outCells ∧ t.outGeom = s.outGeom ∧ t.status.outValid = s.status.outValid

/-- What a step that answers can be: a reset; another turn of the host, or a block's turn that stages nothing, which keep both buffers;
or the completion of a command after its staged writes. -/
theorem step_buffers {s t : State} (h : step s = .next t) :
    s.nextTurn = .host .reset ∨ (s.SameIn t ∧ s.SameOut t) ∨
      (s.nextTurn = .block ∧ s.status.busy = true ∧
        ∃ i u, decode s.pending = .ok i ∧ Staged i (s.withTurns s.turns.tail) u ∧ t = u.complete) := by
  obtain ⟨hn, hstep⟩ | ⟨a, hn, hstep⟩ := step_cases s <;> rw [hstep] at h
  · obtain ⟨-, rfl⟩ | ⟨hb, ⟨e, rfl⟩ | hu⟩ := blockTurn_next h
    · exact .inr (.inl ⟨⟨rfl, rfl, rfl⟩, ⟨rfl, rfl, rfl⟩⟩)
    · exact .inr (.inl ⟨by simp [State.SameIn], by simp [State.SameOut]⟩)
    · exact .inr (.inr ⟨hn, hb, hu⟩)
  · by_cases ha : a = .reset
    · exact .inl (ha ▸ hn)
    · obtain ⟨hic, hoc, hig, hog, hiv, hov⟩ := hostTurn_buffers h ha
      exact .inr (.inl ⟨⟨hic, hig, hiv⟩, ⟨hoc, hog, hov⟩⟩)

/-- The staged writes of a command keep IN, unless it is LOAD, LOAD.W, or WIDEN or NARROW of IN. -/
theorem Staged.sameIn {i : Instr} {s u : State} (h : Staged i s u) :
    i ∈ [Instr.load, .loadW, .widen .inBuf, .narrow .inBuf] ∨ s.SameIn u := by
  cases h with
  | nop => exact .inr ⟨rfl, rfl, rfl⟩
  | load hi => cases i <;> simp [loadedAs] at hi <;> simp
  | save => exact .inr ⟨rfl, rfl, rfl⟩
  | @widen b =>
    cases b with
    | inBuf => simp
    | outBuf => exact .inr ⟨rfl, rfl, rfl⟩
  | @narrow b =>
    cases b with
    | inBuf => simp
    | outBuf => exact .inr ⟨rfl, rfl, rfl⟩
  | copy => exact .inr ⟨rfl, rfl, rfl⟩
  | zoom => exact .inr ⟨rfl, rfl, rfl⟩
  | step => exact .inr ⟨rfl, rfl, rfl⟩

/-- The staged writes of a command keep OUT, unless it is COPY, ZOOM, a ROI step, or WIDEN or NARROW of OUT. -/
theorem Staged.sameOut {i : Instr} {s u : State} (h : Staged i s u) :
    i ∈ [Instr.copy, .zoom, .zin, .zout, .panl, .panr, .panu, .pand, .widen .outBuf, .narrow .outBuf] ∨ s.SameOut u := by
  cases h with
  | nop => exact .inr ⟨rfl, rfl, rfl⟩
  | load => exact .inr ⟨rfl, rfl, rfl⟩
  | save => exact .inr ⟨rfl, rfl, rfl⟩
  | @widen b =>
    cases b with
    | inBuf => exact .inr ⟨rfl, rfl, rfl⟩
    | outBuf => simp
  | @narrow b =>
    cases b with
    | inBuf => exact .inr ⟨rfl, rfl, rfl⟩
    | outBuf => simp
  | copy => simp
  | zoom => simp
  | step hi => cases i <;> simp [roiOf] at hi <;> simp

/-- Settles O55: of the turns that answer, only a reset and the commands that write IN change it. -/
theorem onlyTheseTurnsChangeIn : Obligations.OnlyTheseTurnsChangeIn := by
  intro s t h hdiff
  have hne : ¬ s.SameIn t := by rintro ⟨hc, hg, hv⟩; simp [hc, hg, hv] at hdiff
  obtain hr | ⟨hsame, -⟩ | ⟨hn, hb, i, u, hd, hu, rfl⟩ := step_buffers h
  · exact .inl hr
  · exact absurd hsame hne
  · obtain hi | hsame := hu.sameIn
    · exact .inr ⟨hn, hb, i, hi, hd⟩
    · exact absurd hsame hne

/-- Settles O56: of the turns that answer, only a reset and the commands that write OUT change it. -/
theorem onlyTheseTurnsChangeOut : Obligations.OnlyTheseTurnsChangeOut := by
  intro s t h hdiff
  have hne : ¬ s.SameOut t := by rintro ⟨hc, hg, hv⟩; simp [hc, hg, hv] at hdiff
  obtain hr | ⟨-, hsame⟩ | ⟨hn, hb, i, u, hd, hu, rfl⟩ := step_buffers h
  · exact .inl hr
  · exact absurd hsame hne
  · obtain hi | hsame := hu.sameOut
    · exact .inr ⟨hn, hb, i, hi, hd⟩
    · exact absurd hsame hne

/-! ## Which turns clear a bit of STATUS (10_state.md R28, R29) -/

/-- The VALID bits and the sticky bits that are set in f are set in g (R28). -/
def Status.Keeps (f g : Status) : Prop :=
  (f.inValid = true → g.inValid = true) ∧ (f.outValid = true → g.outValid = true) ∧
    (f.errSticky = true → g.errSticky = true) ∧ (f.overrun = true → g.overrun = true)

theorem Status.Keeps.refl (f : Status) : f.Keeps f := ⟨id, id, id, id⟩

/-- The staged writes of a command clear no VALID bit and leave the sticky bits alone. -/
theorem Staged.status_keeps {i : Instr} {s u : State} (h : Staged i s u) : s.status.Keeps u.status := by
  cases h with
  | nop | save => exact .refl _
  | widen | narrow => rw [State.setCells_status]; exact .refl _
  | load => exact ⟨fun _ => rfl, id, id, id⟩
  | copy | zoom | step => exact ⟨id, fun _ => rfl, id, id⟩

theorem blockTurn_status_keeps {s t : State} (h : blockTurn s = .next t) : s.status.Keeps t.status := by
  obtain ⟨-, rfl⟩ | ⟨-, ⟨e, rfl⟩ | ⟨i, u, -, hu, rfl⟩⟩ := blockTurn_next h
  · exact .refl _
  · rw [State.raise_status]; exact ⟨id, id, fun _ => rfl, id⟩
  · exact hu.status_keeps

/-- A write to the window clears bits of STATUS only if it is a write to STATUS. -/
theorem State.hostWrite_status_keeps (s : State) (n : Nat) (v : Word) :
    (n = 0x04 ∧ (s.hostWrite n v).status = s.status.clear v) ∨ s.status.Keeps (s.hostWrite n v).status := by
  obtain ⟨r, hr, -, h⟩ | ⟨-, h⟩ | h := s.hostWrite_cases n v <;> rw [h]
  · rw [State.storeReg_status]
    split_ifs with hst
    · exact .inl ⟨regAt_status (hst ▸ hr), rfl⟩
    · exact .inr ⟨id, id, id, id⟩
    · exact .inr (.refl _)
  · exact .inr ⟨id, id, id, fun _ => rfl⟩
  · exact .inr (.refl _)

/-- A turn of the host other than reset keeps the bits of STATUS that are set, or is a STATUS write. -/
theorem hostTurn_status_keeps {a : HostAction} {s t : State} (h : hostTurn a s = .next t) (ha : a ≠ .reset) :
    (∃ v, a = .writeReg .word 0x04 v ∧ t.status = s.status.clear v) ∨ s.status.Keeps t.status := by
  obtain ⟨o, v, rfl, rfl⟩ | ⟨x, d, rfl⟩ | ⟨addr, b, rfl⟩ | ⟨hr, -⟩ := hostTurn_next h
  · obtain ⟨ho, hst⟩ | hk := s.hostWrite_status_keeps o.toNat v
    · have ho' : o = 0x04 := BitVec.eq_of_toNat_eq ho
      exact .inl ⟨v, by rw [ho'], hst⟩
    · exact .inr hk
  · exact .inr (.refl _)
  · exact .inr (.refl _)
  · exact absurd hr ha

/-- Settles O57: the block's turn clears none of the four bits, and of the host's turns only a STATUS write does, where its bit is 1. -/
theorem statusBitsAreClearedOnlyAsStated : Obligations.StatusBitsAreClearedOnlyAsStated := by
  intro s t h hreset
  have hcases : (∃ v, s.nextTurn = .host (.writeReg .word 0x04 v) ∧ t.status = s.status.clear v) ∨
      s.status.Keeps t.status := by
    obtain ⟨-, hstep⟩ | ⟨a, hn, hstep⟩ := step_cases s <;> rw [hstep] at h
    · exact .inr (blockTurn_status_keeps (s := s.withTurns s.turns.tail) h)
    · obtain ⟨v, rfl, hst⟩ | hk := hostTurn_status_keeps h (fun ha => hreset (ha ▸ hn))
      · exact .inl ⟨v, hn, hst⟩
      · exact .inr hk
  obtain ⟨v, hn, hst⟩ | ⟨hiv, hov, hes, hor⟩ := hcases
  · refine ⟨by simp [hst], by simp [hst], fun he => ?_, fun ho => ?_⟩
    · cases hv : v.getLsbD 3 with
      | true => exact .inr ⟨v, hn, hv⟩
      | false => exact .inl (by rw [hst, Status.clear_errSticky, he, hv]; rfl)
    · cases hv : v.getLsbD 4 with
      | true => exact .inr ⟨v, hn, hv⟩
      | false => exact .inl (by rw [hst, Status.clear_overrun, ho, hv]; rfl)
  · exact ⟨hiv, hov, fun he => .inl (hes he), fun ho => .inl (hor ho)⟩

/-! ## Reads and writes of the registers -/

theorem and_not_eq_ite (b c : Bool) : (b && !c) = if c = true then false else b := by cases c <;> simp

/-- Settles O11: the next state is the one with the two sticky bits cleared. -/
theorem statusWriteClearsOnlyTheStickyBits : Obligations.StatusWriteClearsOnlyTheStickyBits := by
  intro s rest v
  refine ⟨{ s.withTurns rest with status := s.status.clear v }, ?_, ?_, ?_, rfl⟩
  · rw [step_writeReg s rest (by decide), State.hostWrite_status (by decide)]
    rfl
  · exact and_not_eq_ite _ _
  · exact and_not_eq_ite _ _

/-- The read-only registers of R23. -/
def readOnlyRegs : List Reg :=
  [.errSeg, .errExpected, .errActual, .inH, .inW, .inLayout, .outH, .outW, .outLayout, .bufData]

theorem State.storeReg_readOnly {r : Reg} (hr : r ∈ readOnlyRegs) (s : State) (v : Word) : s.storeReg r v = s := by
  cases r <;> simp [readOnlyRegs] at hr <;> rfl

theorem step_write_readOnly {s : State} (rest : List Turn) (v : Word) {o : BitVec 7} {r : Reg}
    (hb : s.status.busy = false) (hat : (o.toNat, r) ∈ registerMap) (hr : r ∈ readOnlyRegs) :
    step (s.withTurns (.host (.writeReg .word o v) :: rest)) = .next (s.withTurns rest) := by
  rw [step_writeReg s rest (registerMap_aligned hat), State.hostWrite_idle (s := s.withTurns rest) hb (regAt_of_mem hat),
    State.storeReg_readOnly hr]

/-- Settles O13: each of the offsets is one of a read-only register. -/
theorem readOnlyRegistersIgnoreWrites : Obligations.ReadOnlyRegistersIgnoreWrites := by
  intro s rest v hb o ho
  have hmap : ∃ r ∈ readOnlyRegs, (o.toNat, r) ∈ registerMap := by
    revert o
    decide
  obtain ⟨r, hr, hat⟩ := hmap
  exact step_write_readOnly rest v hb hat hr

/-- Settles O14: an access of the window is refused by its alignment and width alone. -/
theorem onlyAlignedWordAccessesReachTheWindow : Obligations.OnlyAlignedWordAccessesReachTheWindow := by
  intro s rest width o v addr b
  simp only [step_host, hostTurn, ← alignedWord_iff]
  refine ⟨?_, ?_, fun hlo hhi => ?_⟩
  · split_ifs with ha <;> simp [ha]
  · split_ifs with ha
    · simp [ha, State.hostRead_ne_refused]
    · simp [ha]
  · have hin : inWindow addr.toNat = true := decide_eq_true ⟨hlo, hhi⟩
    simp [hin]

theorem ErrCode.code_le (e : ErrCode) : e.code ≤ 8 := by cases e <;> decide

/-- The number that STATUS reads as, field by field (R28). -/
theorem Status.word_fields (f : Status) :
    f.word.toNat % 2 = f.busy.toNat ∧ f.word.toNat / 2 % 2 = f.inValid.toNat ∧ f.word.toNat / 4 % 2 = f.outValid.toNat ∧
      f.word.toNat / 8 % 2 = f.errSticky.toNat ∧ f.word.toNat / 16 % 2 = f.overrun.toNat ∧
      f.word.toNat / 32 % 8 = 0 ∧ f.word.toNat / 256 % 16 = f.errCode.code ∧ f.word.toNat / 4096 = 0 := by
  have := f.busy.toNat_lt
  have := f.inValid.toNat_lt
  have := f.outValid.toNat_lt
  have := f.errSticky.toNat_lt
  have := f.overrun.toNat_lt
  have := f.errCode.code_le
  rw [Status.word, BitVec.toNat_ofNat]
  omega

/-- A bit of a word, from the word's number. -/
theorem getLsbD_of_toNat {w : Word} {i : Nat} {b : Bool} (h : w.toNat / 2 ^ i % 2 = b.toNat) : w.getLsbD i = b := by
  rw [BitVec.getLsbD, Nat.testBit_eq_decide_div_mod_eq, h]
  cases b <;> rfl

/-- A field of a word, from the word's number. -/
theorem extractLsb'_of_toNat {w : Word} {i n : Nat} {x : BitVec n} (h : w.toNat / 2 ^ i % 2 ^ n = x.toNat) :
    w.extractLsb' i n = x := by
  apply BitVec.eq_of_toNat_eq
  rw [BitVec.extractLsb'_toNat, Nat.shiftRight_eq_div_pow, h]

/-- The turns still to come do not change what a register holds. -/
@[simp] theorem State.regValue_withTurns (s : State) (ts : List Turn) (r : Reg) :
    (s.withTurns ts).regValue r = s.regValue r := by
  cases r <;> rfl

/-- A read while BUSY = 0, or of a register that R196 calls stable, returns the register's value and changes nothing else. -/
theorem step_readReg_value {s : State} (rest : List Turn) {o : BitVec 7} {r : Reg} {v : Word}
    (hb : s.status.busy = false ∨ r.unstable = false) (hat : (o.toNat, r) ∈ registerMap) (hv : s.regValue r = some v) :
    step (s.withTurns (.host (.readReg .word o) :: rest)) =
      .next { s.withTurns rest with lastRead := some (.register v) } := by
  rw [step_readReg s rest (registerMap_aligned hat),
    State.hostRead_value (s := s.withTurns rest) hb (regAt_of_mem hat) (by simpa using hv)]
  rfl

/-- Settles O15: a read of STATUS returns its word, whose number has the fields of R28. -/
theorem statusReadShowsItsFields : Obligations.StatusReadShowsItsFields := by
  intro s rest
  obtain ⟨hbusy, hin, hout, herr, hover, hlow, hcode, hhigh⟩ := s.status.word_fields
  refine ⟨s.status.word, step_readReg_value rest (r := .status) (.inr rfl) (by decide) rfl,
    getLsbD_of_toNat (by simpa using hbusy), getLsbD_of_toNat hin, getLsbD_of_toNat hout, getLsbD_of_toNat herr,
    getLsbD_of_toNat hover, extractLsb'_of_toNat hlow, extractLsb'_of_toNat (by simp [hhigh]), ?_⟩
  refine extractLsb'_of_toNat (hcode.trans ?_)
  cases s.status.errCode <;> rfl

theorem State.ctrlWord_eq (s : State) :
    s.ctrlWord = (if s.srcEn = true then 1 else 0) + (if s.dstEn = true then 2 else 0) := by
  cases hs : s.srcEn <;> cases hd : s.dstEn <;> simp [State.ctrlWord, hs, hd]

theorem Layout.code_eq (l : Layout) : l.code = if l = .planar then 0 else 1 := by cases l <;> rfl

theorem bufCode_eq (b : BufSel) : bufCode b = if b = .inBuf then 0 else 1 := by cases b <;> rfl

/-- Settles O58: each offset of the list is its register's, and each value the register's. -/
theorem idleReadReturnsItsRegister : Obligations.IdleReadReturnsItsRegister := by
  intro s rest hb reads
  have reads_of : ∀ e : BitVec 7 × Reg × Word,
      (e.1.toNat, e.2.1) ∈ registerMap ∧ s.regValue e.2.1 = some e.2.2 → reads e.1 e.2.2 ∧ s.regValue e.2.1 = some e.2.2 := by
    rintro ⟨o, r, v⟩ ⟨hm, hv⟩
    exact ⟨step_readReg_value rest (.inl hb) hm hv, hv⟩
  refine ⟨fun e he => reads_of e ?_, fun v hv => step_readReg_value rest (.inl hb) (by decide) hv⟩
  revert e
  simp [registerMap, State.regValue, State.ctrlWord_eq, Layout.code_eq, bufCode_eq]

/-- Settles O16: BUF_DATA always has a value here, that of R34. -/
theorem bufDataShowsTheSelectedCell : Obligations.BufDataShowsTheSelectedCell := by
  intro s rest hb hheld
  obtain ⟨v, hv⟩ := Option.isSome_iff_exists.1 (State.bufData_isSome hheld)
  refine ⟨v, step_readReg_value rest (.inl hb) (r := .bufData) (by decide) hv, ?_, ?_, ?_⟩
  · rintro ⟨hval, hidx⟩
    obtain ⟨c, hc, hd⟩ := State.bufData_cell hval (hheld hval) hidx
    obtain rfl : v = c.setWidth 32 := Option.some.inj (hv.symm.trans hd)
    exact ⟨c, hc, by simp [BitVec.toNat_setWidth]; omega⟩
  · intro hno
    exact Option.some.inj (hv.symm.trans (State.bufData_zero hno))
  · intro u
    exact step_write_readOnly rest u hb (r := .bufData) (by decide) (by decide)

end Sys2Proof.Machine

/-! # Host memory

What a turn of the host and a command do to it, and the statements of 20_memory.md that follow. -/

namespace Sys2Proof.Machine

theorem inWindow_iff (a : Nat) : inWindow a = true ↔ regBase ≤ a ∧ a < regBase + 0x80 := decide_eq_true_iff

/-- A host write outside the window is not refused. -/
theorem step_writeMem (s : State) (rest : List Turn) {addr : Word}
    (ha : ¬ (regBase ≤ addr.toNat ∧ addr.toNat < regBase + 0x80)) (b : Byte) :
    step (s.withTurns (.host (.writeMem addr b) :: rest)) = .next ((s.withTurns rest).hostStore addr.toNat b) := by
  rw [step_host, hostTurn, if_neg (mt (inWindow_iff _).1 ha)]

/-- Settles O18: the write stores its byte, and a read of any other address passes over it. -/
theorem hostWriteChangesOneByte : Obligations.HostWriteChangesOneByte := by
  intro s rest addr b ha
  exact ⟨_, step_writeMem s rest ha b, Memory.read_write_same _ _ _,
    fun a hne => Memory.read_write_other _ _ a b hne, rfl, rfl⟩

/-- The two commands that have a cell function of SAVE. -/
theorem savedAs_some {i : Instr} {f : Sample → Sample} (h : savedAs i = some f) : i = .save ∨ i = .saveN := by
  cases i <;> simp [savedAs] at h <;> simp

/-- The staged writes of a command keep host memory, unless it is SAVE or SAVE.N (R60, R67). -/
theorem Staged.mem_eq {i : Instr} {s u : State} (h : Staged i s u) : (i = .save ∨ i = .saveN) ∨ u.mem = s.mem := by
  cases h with
  | save hi => exact .inl (savedAs_some hi)
  | widen | narrow => exact .inr (State.setCells_mem ..)
  | nop | load | copy | zoom | step => exact .inr rfl

/-- Settles O33: an error keeps host memory, and a command that completes has ERR_CODE OK, so it is not a SAVE here. -/
theorem onlyASuccessfulSaveWritesMemory : Obligations.OnlyASuccessfulSaveWritesMemory := by
  intro i s t h hcase
  obtain ⟨e, rfl⟩ | ⟨u, hu, rfl⟩ := exec_next h
  · exact State.raise_mem ..
  · have hnot : ¬ (i = .save ∨ i = .saveN) := by
      obtain ⟨hsave, hsaveN⟩ | herr := hcase
      · exact not_or.2 ⟨hsave, hsaveN⟩
      · exact absurd rfl herr
    exact hu.mem_eq.resolve_left hnot

end Sys2Proof.Machine

/-! # Decoding and encoding of command words

Decode and encode agree because each row of the opcode table fixes the bits under its mask and its command reads the
others (R96); the words that no row matches are those of R97, because a word is determined by its fields and the fields
that have no reason of R97 are those of a command. -/

namespace Sys2Proof

/-- B as a bit of the word is the word's own bit 9 (R93). -/
theorem bufferBit_bufferField (w : Word) : bufferBit (bufferField w) = w &&& 0x200 := by
  rw [show (0x200 : Word) = BitVec.twoPow 32 9 from rfl, BitVec.and_twoPow, bufferField]
  cases w.getLsbD 9 <;> rfl

/-- The command of a row has the row's pattern under the mask, and the word's own bits outside it. -/
theorem encode_row_instr {r : Row} (hr : r ∈ opcodeTable) (w : Word) :
    encode (r.instr w) = r.pattern ||| (w &&& ~~~r.mask) := by
  simp only [opcodeTable, List.mem_cons, List.not_mem_nil, or_false] at hr
  rcases hr with rfl | rfl | rfl | rfl | rfl | rfl | rfl | rfl | rfl | rfl | rfl | rfl | rfl | rfl | rfl <;>
    simp [encode, bufferBit_bufferField]

/-- A word that matches a row is the word of the row's command. -/
theorem eq_encode_of_matches {r : Row} (hr : r ∈ opcodeTable) {w : Word} (hw : w &&& r.mask = r.pattern) :
    w = encode (r.instr w) := by
  rw [encode_row_instr hr, ← hw, ← BitVec.and_or_distrib_left, BitVec.or_not_self, BitVec.and_allOnes]

/-- A decoded command is that of a row the word matches (R96). -/
theorem exists_row_of_decode {w : Word} {i : Instr} (h : decode w = .ok i) :
    ∃ r ∈ opcodeTable, w &&& r.mask = r.pattern ∧ r.instr w = i := by
  unfold decode at h
  split at h
  next r hfind =>
    exact ⟨r, List.mem_of_find?_eq_some hfind, by simpa using List.find?_some hfind, by simpa using h⟩
  next => cases h

@[simp] theorem decode_encode (i : Instr) : decode (encode i) = .ok i := by
  cases i with
  | widen b | narrow b => cases b <;> decide
  | _ => decide

theorem decode_eq_ok_iff {w : Word} {i : Instr} : decode w = .ok i ↔ w = encode i := by
  constructor
  · intro h
    obtain ⟨r, hr, hw, rfl⟩ := exists_row_of_decode h
    exact eq_encode_of_matches hr hw
  · rintro rfl
    exact decode_encode i

/-- Settles O2: each row's words are the words of its command, and each command's word decodes to it. -/
theorem decodeIsTheInverseOfEncode : Obligations.DecodeIsTheInverseOfEncode := fun _ _ => decode_eq_ok_iff

/-- Settles O1: each word of the table is the encoding of its row's command. -/
theorem opcodeMapWordsDecode : Obligations.OpcodeMapWordsDecode :=
  ⟨decode_encode .nop, decode_encode .load, decode_encode .loadW, decode_encode .save, decode_encode .saveN,
    decode_encode (.widen .inBuf), decode_encode (.widen .outBuf), decode_encode (.narrow .inBuf),
    decode_encode (.narrow .outBuf), decode_encode .copy, decode_encode .zoom, decode_encode .zin, decode_encode .zout,
    decode_encode .panl, decode_encode .panr, decode_encode .panu, decode_encode .pand⟩

theorem fieldsOf_op (w : Word) : (fieldsOf w).op = (w.extractLsb' 0 8).toNat := by
  simp [fieldsOf]

theorem fieldsOf_step (w : Word) : (fieldsOf w).step = (w.extractLsb' 12 4).toNat := by
  simp [fieldsOf, Nat.shiftRight_eq_div_pow]

theorem fieldsOf_low (w : Word) : (fieldsOf w).low = (w.extractLsb' 10 2).toNat := by
  simp [fieldsOf, Nat.shiftRight_eq_div_pow]

theorem fieldsOf_high (w : Word) : (fieldsOf w).high = (w.extractLsb' 16 16).toNat := by
  have := w.isLt
  simp [fieldsOf, Nat.shiftRight_eq_div_pow]
  omega

theorem fieldsOf_convert (w : Word) : (fieldsOf w).convert = w.getLsbD 8 := by
  simp [fieldsOf, BitVec.getLsbD, Nat.testBit_eq_decide_div_mod_eq, beq_eq_decide]

theorem fieldsOf_buffer (w : Word) : (fieldsOf w).buffer = w.getLsbD 9 := by
  simp [fieldsOf, BitVec.getLsbD, Nat.testBit_eq_decide_div_mod_eq, beq_eq_decide]

/-- The fields of a word put back in their places (R91). -/
theorem toNat_eq_of_fieldsOf (w : Word) :
    w.toNat = (fieldsOf w).op + 256 * (fieldsOf w).convert.toNat + 512 * (fieldsOf w).buffer.toNat +
      1024 * (fieldsOf w).low + 4096 * (fieldsOf w).step + 65536 * (fieldsOf w).high := by
  have bit (n : Nat) : (n % 2 == 1).toNat = n % 2 := by
    obtain h | h := Nat.mod_two_eq_zero_or_one n <;> simp [h]
  simp only [fieldsOf, bit]
  omega

theorem fieldsOf_injective : Function.Injective fieldsOf := by
  intro w v h
  apply BitVec.eq_of_toNat_eq
  rw [toNat_eq_of_fieldsOf w, h, ← toNat_eq_of_fieldsOf v]

/-- No reason of R97 holds of the fields. -/
structure Fields.Legal (f : Fields) : Prop where
  low     : f.low = 0
  high    : f.high = 0
  opcode  : f.op < 8
  roiStep : f.op = 7 → f.step < 6
  convert : f.convert = true → f.op = 1 ∨ f.op = 2
  buffer  : f.buffer = true → f.op = 3 ∨ f.op = 4
  step    : f.step ≠ 0 → f.op = 7

/-- The list of R97: fields are illegal for one of its six classes. -/
theorem Fields.not_legal_iff (f : Fields) :
    ¬ f.Legal ↔ 8 ≤ f.op ∨ (f.op = 7 ∧ 6 ≤ f.step) ∨ (f.low ≠ 0 ∨ f.high ≠ 0) ∨
      (f.convert = true ∧ f.op ≠ 1 ∧ f.op ≠ 2) ∨ (f.buffer = true ∧ f.op ≠ 3 ∧ f.op ≠ 4) ∨
      (f.step ≠ 0 ∧ f.op ≠ 7) := by
  constructor
  · intro h
    by_contra hnone
    exact h (by constructor <;> grind)
  · rintro hlist ⟨hlow, hhigh, hop, hroi, hconvert, hbuffer, hstep⟩
    grind

/-- The model's check for a reason of R97 finds none exactly where there is none. -/
theorem illFormed?_eq_none_iff (w : Word) : illFormed? w = none ↔ (fieldsOf w).Legal := by
  constructor
  · intro h
    simp only [illFormed?] at h
    split_ifs at h
    constructor <;> grind
  · rintro ⟨hlow, hhigh, hop, hroi, hconvert, hbuffer, hstep⟩
    simp only [illFormed?]
    grind

/-- Legal fields are those of a command: the opcode selects it, with C in LOAD and SAVE, B in WIDEN and NARROW, and STEP
in ROISTEP. -/
theorem Fields.Legal.exists_encode {f : Fields} (hf : f.Legal) : ∃ i, fieldsOf (encode i) = f := by
  obtain ⟨op, convert, buffer, low, step, high⟩ := f
  obtain ⟨hlow, hhigh, hop, hroi, hconvert, hbuffer, hstep⟩ := hf
  dsimp only at *
  subst hlow hhigh
  have hnoConvert (h : ¬ (op = 1 ∨ op = 2)) : convert = false := by simpa using mt hconvert h
  have hnoBuffer (h : ¬ (op = 3 ∨ op = 4)) : buffer = false := by simpa using mt hbuffer h
  have hnoStep (h : op ≠ 7) : step = 0 := by_contra fun hne => h (hstep hne)
  interval_cases op
  · exact ⟨.nop, by rw [hnoConvert (by decide), hnoBuffer (by decide), hnoStep (by decide)]; rfl⟩
  · rw [hnoBuffer (by decide), hnoStep (by decide)]
    exact convert.casesOn ⟨.load, rfl⟩ ⟨.loadW, rfl⟩
  · rw [hnoBuffer (by decide), hnoStep (by decide)]
    exact convert.casesOn ⟨.save, rfl⟩ ⟨.saveN, rfl⟩
  · rw [hnoConvert (by decide), hnoStep (by decide)]
    exact buffer.casesOn ⟨.widen .inBuf, rfl⟩ ⟨.widen .outBuf, rfl⟩
  · rw [hnoConvert (by decide), hnoStep (by decide)]
    exact buffer.casesOn ⟨.narrow .inBuf, rfl⟩ ⟨.narrow .outBuf, rfl⟩
  · exact ⟨.copy, by rw [hnoConvert (by decide), hnoBuffer (by decide), hnoStep (by decide)]; rfl⟩
  · exact ⟨.zoom, by rw [hnoConvert (by decide), hnoBuffer (by decide), hnoStep (by decide)]; rfl⟩
  · rw [hnoConvert (by decide), hnoBuffer (by decide)]
    have hlt : step < 6 := hroi rfl
    interval_cases step
    exacts [⟨.zin, rfl⟩, ⟨.zout, rfl⟩, ⟨.panl, rfl⟩, ⟨.panr, rfl⟩, ⟨.panu, rfl⟩, ⟨.pand, rfl⟩]

open Laws.EncodingIsNotIllegal in
theorem illFormed?_encode (i : Instr) : illFormed? (encode i) = none :=
  match i with
  | .nop => nop | .load => load | .loadW => loadW | .save => save | .saveN => saveN
  | .widen b => widen b | .narrow b => narrow b | .copy => copy | .zoom => zoom
  | .zin => zin | .zout => zout | .panl => panl | .panr => panr | .panu => panu | .pand => pand

/-- The words without a reason of R97 are those of the commands. -/
theorem illFormed?_eq_none_iff_exists_encode (w : Word) : illFormed? w = none ↔ ∃ i, w = encode i := by
  constructor
  · intro h
    obtain ⟨i, hi⟩ := ((illFormed?_eq_none_iff w).1 h).exists_encode
    exact ⟨i, (fieldsOf_injective hi).symm⟩
  · rintro ⟨i, rfl⟩
    exact illFormed?_encode i

/-- A word is rejected exactly if there is a reason of R97, as a word decodes exactly if it is that of a command. -/
theorem exists_decode_error_iff (w : Word) : (∃ e, decode w = .error e) ↔ ¬ (fieldsOf w).Legal := by
  rw [← illFormed?_eq_none_iff, illFormed?_eq_none_iff_exists_encode, ← exists_congr fun _ => decode_eq_ok_iff]
  cases decode w <;> simp

/-- Settles O3: the words of the list are those whose fields are not legal. -/
theorem illegalWordsAreThoseOfTheList : Obligations.IllegalWordsAreThoseOfTheList := by
  refine ⟨fun _ => decode_eq_ok_iff, fun w => ?_⟩
  intro op step
  rw [exists_decode_error_iff, Fields.not_legal_iff, fieldsOf_op, fieldsOf_step, fieldsOf_low, fieldsOf_high,
    fieldsOf_convert, fieldsOf_buffer]
  simp only [ne_eq, ← BitVec.toNat_inj]
  rfl

end Sys2Proof

/-! # The codec

The checks of LOAD and SAVE in their order, what a short read reports, and what a LOAD and a SAVE that pass their checks
leave in IN and in host memory: the statements of 40_codec.md. -/

namespace Sys2Proof.Machine

/-! ## The checks of LOAD (40_codec.md R110) -/

theorem layoutOf_unknown {c : Word} (h : c ≠ 0 ∧ c ≠ 1) : layoutOf c = none := by
  obtain ⟨h0, h1⟩ := h
  rw [layoutOf, if_neg h0, if_neg h1]

/-- A code that is not unknown is that of a layout (R19). -/
theorem exists_layout_code {c : Word} (h : ¬ (c ≠ 0 ∧ c ≠ 1)) : ∃ l : Layout, c = l.code := by
  by_cases h0 : c = 0
  · exact ⟨.planar, h0⟩
  · exact ⟨.semiPlanar, not_not.1 fun h1 => h ⟨h0, h1⟩⟩

theorem not_legalFrame_iff (h w : Nat) :
    ¬ LegalFrame h w ↔ h < 2 ∨ w < 2 ∨ h % 2 ≠ 0 ∨ w % 2 ≠ 0 ∨ bufCap < h * w * 3 / 2 := by
  simp only [LegalFrame, not_and_or, not_le, ne_eq]

theorem State.loadCheck_unknownLayout {s : State} (hl : s.layout ≠ 0 ∧ s.layout ≠ 1) :
    s.loadCheck = .error .unknownLayout := by
  simp [State.loadCheck, layoutOf_unknown hl]

theorem State.loadCheck_configError {s : State} {l : Layout} (hl : s.layout = l.code)
    (hf : ¬ LegalFrame s.frameH.toNat s.frameW.toNat) : s.loadCheck = .error .configError := by
  have hno : frameOk s.frameH.toNat s.frameW.toNat = false := Bool.eq_false_iff.2 (mt (frameOk_iff _ _).1 hf)
  simp [State.loadCheck, hl, layoutOf_code, hno]

theorem State.loadCheck_openError {s : State} {l : Layout} (hl : s.layout = l.code)
    (hf : LegalFrame s.frameH.toNat s.frameW.toNat) (he : s.srcEn = false) : s.loadCheck = .error .openError := by
  simp [State.loadCheck, hl, layoutOf_code, (frameOk_iff _ _).2 hf, he]

/-- A LOAD whose stream is clear of the window, and that fails a check. -/
theorem exec_load_error {i : Instr} {f : Sample → Sample} {s : State} {e : Error} (hi : loadedAs i = some f)
    (hw : ¬ MeetsWindow s.srcBase.toNat s.srcEff) (hc : s.loadCheck = .error e) : exec i s = .next (s.raise e) :=
  (exec_of_loadedAs hi s).trans (loadCommand_error (State.srcMeetsWindow_false hw) hc)

/-- A LOAD whose stream is clear of the window, and that passes its checks. -/
theorem exec_load_ok {i : Instr} {f : Sample → Sample} {s : State} {g : Geometry} (hi : loadedAs i = some f)
    (hw : ¬ MeetsWindow s.srcBase.toNat s.srcEff) (hc : s.loadCheck = .ok g) :
    exec i s = .next (s.commitIn ((s.srcCells g.cells).map f) g).drawn.complete :=
  (exec_of_loadedAs hi s).trans (loadCommand_ok (State.srcMeetsWindow_false hw) hc)

/-- The last check of a LOAD is the length of the stream: a short segment is found exactly where the frame is longer (R112). -/
theorem exec_load_stream {i : Instr} {f : Sample → Sample} {s : State} {l : Layout} (hi : loadedAs i = some f)
    (hw : ¬ MeetsWindow s.srcBase.toNat s.srcEff) (hl : s.layout = l.code)
    (hf : LegalFrame s.frameH.toNat s.frameW.toNat) (he : s.srcEn = true) :
    ∃ t, exec i s = .next t ∧
      t.status.errCode = if s.srcEff < 3 * s.frameH.toNat * s.frameW.toNat then .shortRead else .ok := by
  by_cases hb : 3 * s.frameH.toNat * s.frameW.toNat ≤ s.srcEff
  · refine ⟨_, exec_load_ok hi hw (State.loadCheck_ok hl hf he hb), ?_⟩
    rw [if_neg (Nat.not_lt.2 hb)]
    rfl
  · obtain ⟨g, hg⟩ := Option.ne_none_iff_exists'.1 (mt (shortSegment_none_iff (l := l) hf).1 hb)
    refine ⟨_, exec_load_error hi hw (State.loadCheck_short hl hf he hg), ?_⟩
    rw [if_pos (Nat.lt_of_not_le hb)]
    rfl

/-- Settles O27: each check is reached only if those before it pass, and its error is the one raised. -/
theorem loadChecksInOrder : Obligations.LoadChecksInOrder := by
  intro i f s hi hw h w
  have rejects {e : Error} (hc : s.loadCheck = .error e) (he : e.errCode ≠ .shortRead) :
      exec i s = .next (s.rejected e.errCode) :=
    (exec_load_error hi hw hc).trans (congrArg _ (s.raise_eq_rejected he))
  by_cases hlayout : s.layout ≠ 0 ∧ s.layout ≠ 1
  · rw [if_pos hlayout]
    exact rejects (State.loadCheck_unknownLayout hlayout) (by decide)
  rw [if_neg hlayout]
  obtain ⟨l, hl⟩ := exists_layout_code hlayout
  by_cases hf : LegalFrame h w
  · rw [if_neg (mt (not_legalFrame_iff h w).2 (not_not.2 hf))]
    cases hen : s.srcEn with
    | false => exact rejects (State.loadCheck_openError hl hf hen) (by decide)
    | true => exact exec_load_stream hi hw hl hf hen
  · rw [if_pos ((not_legalFrame_iff h w).1 hf)]
    exact rejects (State.loadCheck_configError hl hf) (by decide)

/-! ## The short read (40_codec.md R111, R112) -/

/-- The first short segment of a 420p stream: luma, U or V. -/
theorem shortSegment_planar (h w eff : Nat) : shortSegment .planar h w eff =
    if eff < 2 * h * w then some ⟨0, 0, 2 * h * w⟩
    else if eff < 2 * h * w + h * w / 2 then some ⟨1, 2 * h * w, h * w / 2⟩
    else if eff < 2 * h * w + h * w / 2 + h * w / 2 then some ⟨2, 2 * h * w + h * w / 2, h * w / 2⟩
    else none := by
  simp only [shortSegment, segments, Segment.available, List.find?_cons, List.find?_nil]
  split_ifs <;> grind

/-- The first short segment of a 420sp stream: luma or UV. -/
theorem shortSegment_semiPlanar (h w eff : Nat) : shortSegment .semiPlanar h w eff =
    if eff < 2 * h * w then some ⟨0, 0, 2 * h * w⟩
    else if eff < 2 * h * w + h * w then some ⟨1, 2 * h * w, h * w⟩
    else none := by
  simp only [shortSegment, segments, Segment.available, List.find?_cons, List.find?_nil]
  split_ifs <;> grind

/-- A short segment has the bytes from its offset to the end of the stream. -/
theorem shortSegment_available {l : Layout} {h w eff : Nat} {g : Segment} (hg : shortSegment l h w eff = some g) :
    g.available eff = eff - g.offset := by
  have hlt : g.available eff < g.length := by simpa using List.find?_some hg
  simp only [Segment.available] at hlt ⊢
  omega

/-- The error entry of SHORT_READ (R202, R205). -/
theorem State.raise_shortRead (s : State) (seg : BitVec 2) (expected actual : Word) :
    s.raise (.shortRead seg expected actual) =
      { s.rejected .shortRead with errSeg := seg, errExpected := expected, errActual := actual } := by
  simp [State.raise, State.record, State.rejected, Status.failed, Status.ended, Error.errCode]

/-- A LOAD that passes its other checks reports the first short segment. -/
theorem exec_load_short {i : Instr} {f : Sample → Sample} {s : State} {l : Layout} {g : Segment}
    (hi : loadedAs i = some f) (hw : ¬ MeetsWindow s.srcBase.toNat s.srcEff) (hl : s.layout = l.code)
    (hf : LegalFrame s.frameH.toNat s.frameW.toNat) (he : s.srcEn = true)
    (hg : shortSegment l s.frameH.toNat s.frameW.toNat s.srcEff = some g) :
    exec i s = .next { s.rejected .shortRead with
      errSeg := g.index, errExpected := BitVec.ofNat 32 g.length
      errActual := BitVec.ofNat 32 (g.available s.srcEff) } :=
  (exec_load_error hi hw (State.loadCheck_short hl hf he hg)).trans (congrArg _ (s.raise_shortRead ..))

/-- Settles O28: the segment reported is the one that contains the end of the stream. -/
theorem shortReadReportsTheFirstShortSegment : Obligations.ShortReadReportsTheFirstShortSegment := by
  intro i f s hi hw hf he p report
  obtain ⟨k, hp⟩ : ∃ k, p = 4 * k := by
    obtain ⟨a, b, -, -, -, -, hab, -⟩ := hf.halves
    exact ⟨a * b, hab⟩
  have hluma : 2 * s.frameH.toNat * s.frameW.toNat = 2 * p := Nat.mul_assoc ..
  have report_of {l : Layout} {g : Segment} {actual : Nat} (hl : s.layout = l.code)
      (hg : shortSegment l s.frameH.toNat s.frameW.toNat s.srcEff = some g)
      (hactual : s.srcEff - g.offset = actual) : report g.index g.length actual := by
    rw [← hactual, ← shortSegment_available hg]
    exact exec_load_short hi hw hl hf he hg
  refine ⟨fun hl hshort => ?_, fun hl hshort => ?_⟩
  · have hseg := shortSegment_planar s.frameH.toNat s.frameW.toNat s.srcEff
    rw [hluma] at hseg
    split_ifs with h0 h1
    · rw [if_pos h0] at hseg
      exact report_of (l := .planar) hl hseg rfl
    · rw [if_neg h0, if_pos h1] at hseg
      exact report_of (l := .planar) hl hseg rfl
    · have h2 : s.srcEff < 2 * p + p / 2 + p / 2 := by omega
      rw [if_neg h0, if_neg h1, if_pos h2] at hseg
      exact report_of (l := .planar) hl hseg (Nat.sub_sub ..).symm
  · have hseg := shortSegment_semiPlanar s.frameH.toNat s.frameW.toNat s.srcEff
    rw [hluma] at hseg
    split_ifs with h0
    · rw [if_pos h0] at hseg
      exact report_of (l := .semiPlanar) hl hseg rfl
    · have h1 : s.srcEff < 2 * p + p := by omega
      rw [if_neg h0, if_pos h1] at hseg
      exact report_of (l := .semiPlanar) hl hseg rfl

/-! ## The frame loaded (40_codec.md R113 to R115) -/

/-- A cell of IN that a LOAD fills: the cell function of the little-endian pair of its two stream bytes. -/
theorem State.loaded_cell (s : State) (f : Sample → Sample) (old : List Sample) {n k : Nat} (hk : k < n) :
    (overlay ((s.srcCells n).map f) old)[k]? = some (f (le16 (s.srcByte (2 * k)) (s.srcByte (2 * k + 1)))) := by
  rw [overlay_below _ _ (by simpa using hk), List.getElem?_map, s.srcCells_getElem? hk]
  rfl

/-- Settles O29: the frame that passes the checks is committed to IN whole. -/
theorem loadFillsInFromTheStream : Obligations.LoadFillsInFromTheStream := by
  intro i f l s hi hw hl hf he hb n
  refine ⟨_, exec_load_ok hi hw (State.loadCheck_ok hl hf he hb), fun k hk => ?_, fun k hk => ?_, rfl⟩
  · exact ⟨_, _, s.srcByte_mayLoad _, s.srcByte_mayLoad _, s.loaded_cell f s.inCells hk⟩
  · refine overlay_above _ _ ?_
    rw [List.length_map, State.srcCells_length]
    exact hk

/-! ## SAVE (40_codec.md R117 to R119) -/

/-- The state after a SAVE with this cell function that passes its checks, OUT held. -/
def State.saved (f : Sample → Sample) (s : State) : State :=
  { s with mem := s.mem.store s.dstBase.toNat (s.settle (fun a => !(s.replacedAt a).isEmpty) 0
      (streamOf ((s.outCells.take s.outGeom.cells).map f))) }.drawn.complete

/-- A SAVE whose stream is clear of the window, and that fails a check. -/
theorem exec_save_error {i : Instr} {f : Sample → Sample} {s : State} {e : Error} (hi : savedAs i = some f)
    (hw : ¬ MeetsWindow s.dstBase.toNat s.dstEff) (hc : s.saveCheck = some e) : exec i s = .next (s.raise e) :=
  (exec_of_savedAs hi s).trans (saveCommand_error (State.dstMeetsWindow_false hw) hc)

/-- A SAVE whose stream is clear of the window, and that passes its checks. -/
theorem exec_save_ok {i : Instr} {f : Sample → Sample} {s : State} (hi : savedAs i = some f)
    (hw : ¬ MeetsWindow s.dstBase.toNat s.dstEff) (hc : s.saveCheck = none) (hh : s.Held .outBuf) :
    exec i s = .next (s.saved f) :=
  (exec_of_savedAs hi s).trans (saveCommand_ok (State.dstMeetsWindow_false hw) hc hh)

theorem State.saveCheck_noData {s : State} (hv : s.status.outValid = false) : s.saveCheck = some .noData := by
  simp [State.saveCheck, hv]

theorem State.saveCheck_writeError {s : State} (hv : s.status.outValid = true)
    (h : s.dstEn = false ∨ s.dstEff < 3 * s.outGeom.h.toNat * s.outGeom.w.toNat) : s.saveCheck = some .writeError := by
  have hb : s.outGeom.bytes = 3 * s.outGeom.h.toNat * s.outGeom.w.toNat := rfl
  obtain he | hroom := h
  · simp [State.saveCheck, hv, he]
  · simp [State.saveCheck, hv, hb, hroom]

/-- Settles O31: each check is reached only if those before it pass, and a SAVE that passes them all ends with OK. -/
theorem saveChecksInOrder : Obligations.SaveChecksInOrder := by
  intro i f s hi hw
  have rejects {e : Error} (hc : s.saveCheck = some e) (he : e.errCode ≠ .shortRead) :
      exec i s = .next (s.rejected e.errCode) :=
    (exec_save_error hi hw hc).trans (congrArg _ (s.raise_eq_rejected he))
  split_ifs with hv hroom
  · exact rejects (State.saveCheck_noData hv) (by decide)
  · exact rejects (State.saveCheck_writeError (by simpa using hv) hroom) (by decide)
  · intro hh
    have hc : s.saveCheck = none := by
      rw [State.saveCheck_none_iff]
      simpa [not_or] using And.intro hv hroom
    exact ⟨_, exec_save_ok hi hw hc hh, rfl⟩

/-- A byte of the stream that a SAVE writes is the cell's, or, where the host has written it, what memory held (R237). -/
theorem State.saved_read_inside {s : State} (f : Sample → Sample) {k : Nat} {v : Sample} (hk : k / 2 < s.outGeom.cells)
    (hv : s.outCells[k / 2]? = some v) :
    (s.saved f).mem.read (s.dstBase.toNat + k) = cellByte (f v) k ∨
      (∃ b, (s.dstBase.toNat + k, b) ∈ s.races) ∧
        (s.saved f).mem.read (s.dstBase.toNat + k) = s.mem.read (s.dstBase.toNat + k) := by
  have hbyte : (streamOf ((s.outCells.take s.outGeom.cells).map f))[k]? = some (cellByte (f v) k) := by
    simp [streamOf_getElem?, List.getElem?_take_of_lt hk, hv]
  obtain ⟨c, hc, hcase⟩ := s.settle_getElem? (fun a => !(s.replacedAt a).isEmpty) 0 k _ hbyte
  have hread : (s.saved f).mem.read (s.dstBase.toNat + k) = c := by
    rw [State.saved, State.complete_mem, State.drawn_mem, Memory.read_store, if_neg (by omega), Nat.add_sub_cancel_left, hc]
    rfl
  rw [hread]
  simp only [Nat.zero_add] at hcase
  obtain h | ⟨hrace, h⟩ := hcase
  · exact .inl h
  · obtain ⟨b, hb⟩ := List.exists_mem_of_ne_nil _ (show s.replacedAt (s.dstBase.toNat + k) ≠ [] by simpa using hrace)
    exact .inr ⟨⟨b, (s.mem_replacedAt _ _).1 hb⟩, h⟩

/-- A byte outside the stream that a SAVE writes is what it was (R67). -/
theorem State.saved_read_outside {s : State} (f : Sample → Sample) (hh : s.Held .outBuf) {a : Nat}
    (ha : a < s.dstBase.toNat ∨ s.dstBase.toNat + 2 * s.outGeom.cells ≤ a) :
    (s.saved f).mem.read a = s.mem.read a := by
  have hlen : (s.outCells.take s.outGeom.cells).length = s.outGeom.cells := hh.take_length
  simp only [State.saved, State.complete_mem, State.drawn_mem, Memory.read_store]
  split_ifs with hlt
  · rfl
  · rw [List.getElem?_eq_none]
    · rfl
    · rw [State.settle_length, streamOf_length, List.length_map, hlen]
      omega

/-- Settles O32: a legal frame's stream has two bytes for each cell of OUT. -/
theorem saveWritesExactlyTheStream : Obligations.SaveWritesExactlyTheStream := by
  intro i f s hi hw hv hl hh he hroom
  refine ⟨_, exec_save_ok hi hw (State.saveCheck_none_iff.2 ⟨hv, he, hroom⟩) hh, fun k hk => ?_, fun a ha => ?_, rfl⟩
  · rw [hl.bytes_eq] at hk
    have hcell : k / 2 < s.outGeom.cells := by omega
    have hget := List.getElem?_eq_getElem (Nat.lt_of_lt_of_le hcell ((State.held_outBuf s).1 hh))
    exact ⟨_, hget, State.saved_read_inside f hcell hget⟩
  · rw [hl.bytes_eq] at ha
    exact State.saved_read_outside f hh ha

end Sys2Proof.Machine

/-! # Bit depth

The cell functions of WIDEN and NARROW as arithmetic, and what the two commands make of a valid buffer: the statements of
41_bitdepth.md. -/

namespace Sys2Proof.Machine

/-! ## The cell functions (41_bitdepth.md R130, R131) -/

/-- A ten-bit cell times 64 still fits in sixteen bits. -/
theorem widen_toNat_of_le {v : Sample} (hv : v.toNat ≤ 1023) : (widen v).toNat = v.toNat * 64 := by
  rw [widen, if_pos hv, BitVec.toNat_ofNat, Nat.mod_eq_of_lt (by omega)]

/-- Settles O36: only a cell above 1023 depends on WIDEN_OVR. -/
theorem widenMultipliesBy64 : Obligations.WidenMultipliesBy64 := by
  intro v
  split_ifs with hv
  · exact widen_toNat_of_le hv
  · rw [widen, if_neg hv]
    cases Config.widenOvr with
    | wrap => exact (BitVec.toNat_ofNat ..).trans (Nat.mod_mod ..)
    | saturate => rfl

@[simp] theorem narrow_toNat (v : Sample) : (narrow v).toNat = v.toNat / 64 := by
  rw [narrow, BitVec.toNat_ofNat, Nat.mod_eq_of_lt (by omega)]

/-- Settles O37: a sixteen-bit cell divided by 64 has ten bits. -/
theorem narrowDividesBy64 : Obligations.NarrowDividesBy64 :=
  fun v => ⟨narrow_toNat v, by rw [narrow_toNat]; omega⟩

/-! ## The conversion in place (41_bitdepth.md R132, R133) -/

/-- The state after a WIDEN or a NARROW with this cell function on a valid buffer that holds its frame. -/
def State.converted (f : Sample → Sample) (b : BufSel) (s : State) : State :=
  (s.setCells b (((s.cells b).take (s.geom b).cells).map f)).complete

/-- WIDEN and NARROW are one procedure that differs in the cell function alone. -/
theorem exec_convert_ok {b : BufSel} {s : State} (hv : s.valid b = true) (hh : s.Held b) {e : Instr × (Sample → Sample)}
    (he : e ∈ [(.widen b, widen), (.narrow b, narrow)]) : exec e.1 s = .next (s.converted e.2 b) := by
  obtain rfl | rfl : e = (.widen b, widen) ∨ e = (.narrow b, narrow) := by simpa using he
  · exact convertInPlace_ok hv hh
  · exact convertInPlace_ok hv hh

theorem State.converted_cells (f : Sample → Sample) (b : BufSel) (s : State) :
    (s.converted f b).cells b = overlay (((s.cells b).take (s.geom b).cells).map f) (s.cells b) := by
  cases b <;> rfl

theorem State.converted_cell_inside {s : State} {b : BufSel} (hh : s.Held b) (f : Sample → Sample) {k : Nat}
    (hk : k < (s.geom b).cells) :
    ∃ v, (s.cells b)[k]? = some v ∧ ((s.converted f b).cells b)[k]? = some (f v) := by
  have hget := List.getElem?_eq_getElem (Nat.lt_of_lt_of_le hk hh)
  refine ⟨_, hget, ?_⟩
  rw [State.converted_cells, overlay_below _ _ (by rwa [List.length_map, hh.take_length]), List.getElem?_map,
    List.getElem?_take_of_lt hk, hget]
  rfl

theorem State.converted_cell_outside {s : State} {b : BufSel} (hh : s.Held b) (f : Sample → Sample) {k : Nat}
    (hk : (s.geom b).cells ≤ k) : ((s.converted f b).cells b)[k]? = (s.cells b)[k]? := by
  rw [State.converted_cells, overlay_above _ _ (by rwa [List.length_map, hh.take_length])]

/-- The frame of a conversion: the other buffer and every register but STATUS stay as they were. -/
theorem State.converted_frame (f : Sample → Sample) (b : BufSel) (s : State) :
    s.converted f b = { s with
      inCells := if b = .inBuf then (s.converted f b).inCells else s.inCells
      outCells := if b = .outBuf then (s.converted f b).outCells else s.outCells
      status := { s.status with busy := false, errCode := .ok }, races := [] } := by
  cases b <;> rfl

/-- Settles O39: the meaningful cells, the cells past the frame, and everything else. -/
theorem widenAndNarrowMapTheBuffer : Obligations.WidenAndNarrowMapTheBuffer := by
  intro b s hv hh e he
  exact ⟨_, exec_convert_ok hv hh he, fun _ hk => State.converted_cell_inside hh e.2 hk,
    fun _ hk => State.converted_cell_outside hh e.2 hk, State.converted_frame e.2 b s⟩

end Sys2Proof.Machine

/-! # The resampler

COPY, ZOOM and the ROI steps end in one operation: IN's frame, or its zoom, is written over the first cells of OUT, and IN's
geometry with it. What that operation leaves in OUT is said once, and the statements of 42_resampler.md follow from it. -/

namespace Sys2Proof.Machine

/-! ## A frame written into OUT (42_resampler.md R140, R143; 43_roi.md R162) -/

/-- The state after a command that fills OUT with these cells. -/
def State.outFilled (s : State) (cells : List Sample) : State := (s.commitOut cells).complete

theorem State.outFilled_cell_inside {s : State} {cells : List Sample} (hn : cells.length = s.inGeom.cells) {k : Nat}
    (hk : k < s.inGeom.cells) : (s.outFilled cells).outCells[k]? = cells[k]? :=
  overlay_below cells s.outCells (hn ▸ hk)

theorem State.outFilled_cell_outside {s : State} {cells : List Sample} (hn : cells.length = s.inGeom.cells) {k : Nat}
    (hk : s.inGeom.cells ≤ k) : (s.outFilled cells).outCells[k]? = s.outCells[k]? :=
  overlay_above cells s.outCells (hn ▸ hk)

/-- The frame of filling OUT: every other buffer cell and every register but OUT's geometry and STATUS stay as they were. -/
theorem State.outFilled_frame (s : State) (cells : List Sample) :
    s.outFilled cells = { s with
      outCells := (s.outFilled cells).outCells, outGeom := s.inGeom
      status := { s.status with outValid := true, busy := false, errCode := .ok }, races := [] } := rfl

/-! ## COPY (42_resampler.md R140) -/

/-- Settles O41: COPY fills OUT with the meaningful cells of IN. -/
theorem copyMakesOutEqualIn : Obligations.CopyMakesOutEqualIn := by
  intro s hv hh
  refine ⟨s.outFilled (s.inCells.take s.inGeom.cells), execCopy_ok hv hh, fun k hk => ?_,
    fun k hk => State.outFilled_cell_outside hh.take_length hk, State.outFilled_frame s _⟩
  calc (s.outFilled (s.inCells.take s.inGeom.cells)).outCells[k]?
      = (s.inCells.take s.inGeom.cells)[k]? := State.outFilled_cell_inside hh.take_length hk
    _ = s.inCells[k]? := List.getElem?_take_of_lt hk

/-! ## ZOOM and the ROI steps (42_resampler.md R142, R143; 43_roi.md R162 to R168) -/

/-- The registers already hold the current ROI. -/
@[simp] theorem State.setRoi_self (s : State) : s.setRoi s.roi = s := by
  simp [State.setRoi, State.roi]

/-- The state after a ZOOM or a ROI step that works at this valid ROI. -/
def State.zoomed (s : State) (r : Roi) : State :=
  (s.setRoi r).outFilled (resample (s.inCells.take s.inGeom.cells) s.inGeom r)

/-- ZOOM is the step that proposes the current ROI, so one state describes all seven commands. -/
theorem exec_of_roiOf_zoomed {i : Instr} {p : Roi → Roi} {s : State} (hi : roiOf i = some p) (hv : s.status.inValid = true)
    (hr : (p s.roi).Fits s.inGeom) (hh : s.Held .inBuf) : exec i s = .next (s.zoomed (p s.roi)) := by
  rw [exec_of_roiOf hi hv hr hh]
  split_ifs with hz
  · subst hz
    obtain rfl : (fun r => r) = p := Option.some.inj hi
    rw [State.zoomed, State.setRoi_self]
    rfl
  · rfl

/-- Every plane of OUT is CUBIC of the crop of the same plane of IN. -/
theorem State.zoomed_view {s : State} (hl : s.inGeom.Legal) {r : Roi} (hr : r.Fits s.inGeom) {V : View}
    (hV : V ∈ views s.inGeom) {a c : Nat} (ha : a < V.rows) (hc : c < V.cols) :
    (s.zoomed r).outCells[V.index a c]? =
      (cubic (crop s.inCells V.index (V.rect r)) V.rows V.cols)[a * V.cols + c]? :=
  calc (s.zoomed r).outCells[V.index a c]?
      = (resample (s.inCells.take s.inGeom.cells) s.inGeom r)[V.index a c]? :=
        State.outFilled_cell_inside (s := s.setRoi r) (resample_length hl _ r) (View.index_lt hl hV ha hc)
    _ = (cubic (crop (s.inCells.take s.inGeom.cells) V.index (V.rect r)) V.rows V.cols)[a * V.cols + c]? :=
        resample_view hl _ r hV ha hc
    _ = (cubic (crop s.inCells V.index (V.rect r)) V.rows V.cols)[a * V.cols + c]? := by
        rw [crop_take hl hV hr]

/-- Every cell of a view of OUT holds a value after an accepted ZOOM or step. -/
theorem State.zoomed_view_isSome {s : State} (hl : s.inGeom.Legal) (r : Roi) {V : View} (hV : V ∈ views s.inGeom)
    {a c : Nat} (ha : a < V.rows) (hc : c < V.cols) : ∃ v, (s.zoomed r).outCells[V.index a c]? = some v := by
  have hlen := resample_length hl (s.inCells.take s.inGeom.cells) r
  have hk := View.index_lt hl hV ha hc
  have hcell := State.outFilled_cell_inside (s := s.setRoi r) hlen hk
  exact ⟨_, hcell.trans (List.getElem?_eq_getElem (hk.trans_eq hlen.symm))⟩

theorem State.zoomed_cell_outside {s : State} (hl : s.inGeom.Legal) (r : Roi) {k : Nat} (hk : s.inGeom.cells ≤ k) :
    (s.zoomed r).outCells[k]? = s.outCells[k]? :=
  State.outFilled_cell_outside (s := s.setRoi r) (resample_length hl _ r) hk

/-- The ROI registers hold the ROI that was worked at. -/
theorem State.zoomed_roi {s : State} (hl : s.inGeom.Legal) {r : Roi} (hr : r.Fits s.inGeom) : (s.zoomed r).roi = r :=
  State.setRoi_roi hr hl

/-- The frame of a ZOOM or a ROI step: the ROI registers, OUT with its geometry, and STATUS change, nothing else. -/
theorem State.zoomed_frame (s : State) (r : Roi) :
    s.zoomed r = { s with
      roiX := (s.zoomed r).roiX, roiY := (s.zoomed r).roiY, roiW := (s.zoomed r).roiW, roiH := (s.zoomed r).roiH
      outCells := (s.zoomed r).outCells, outGeom := s.inGeom
      status := { s.status with outValid := true, busy := false, errCode := .ok }, races := [] } := rfl

/-- Settles O44: the planes of OUT, the cells past the frame, the ROI registers, and everything else. -/
theorem acceptedZoomResamplesEveryPlane : Obligations.AcceptedZoomResamplesEveryPlane := by
  intro i propose s hi hv hl hh hr r
  refine ⟨s.zoomed r, exec_of_roiOf_zoomed hi hv hr hh, fun V hV a c ha hc => ?_,
    fun k hk => State.zoomed_cell_outside hl r hk, State.zoomed_roi hl hr, State.zoomed_frame s r⟩
  obtain ⟨v, hcell⟩ := State.zoomed_view_isSome hl r hV ha hc
  exact ⟨v, hcell, (State.zoomed_view hl hr hV ha hc).symm.trans hcell⟩

end Sys2Proof.Machine

/-! # ROI validation

`Roi.valid` is a Bool and 43_roi.md R160 is a proposition over the integers; the two are the same six tests. -/

namespace Sys2Proof.Machine

/-- Settles O46: the Bool is the negated decision of the six tests, and the decision answers false exactly where none holds. -/
theorem roiValidationIsTheSixTests : Obligations.RoiValidationIsTheSixTests := by
  intro x y w h fh fw
  rw [Roi.valid, Bool.not_eq_true', decide_eq_false_iff_not]

end Sys2Proof.Machine

/-! # The command cycle

What the block's turn does with the word in PENDING and how it ends, the register window while a command is pending, and the statements of
44_control.md that follow. -/

namespace Sys2Proof.Machine

/-! ## The block's turn, case by case (44_control.md R191) -/

theorem step_nil (s : State) : step (s.withTurns []) = blockTurn (s.withTurns []) := rfl

theorem step_of_nextTurn_block {s : State} (hn : s.nextTurn = .block) : step s = blockTurn (s.withTurns s.turns.tail) := by
  rw [step_nextTurn, hn]

theorem blockTurn_idle {s : State} (hb : s.status.busy = false) : blockTurn s = .next s := by
  simp [blockTurn, hb]

theorem blockTurn_command {s : State} {i : Instr} (hb : s.status.busy = true) (hd : decode s.pending = .ok i) :
    blockTurn s = exec i s := by
  simp [blockTurn, hb, hd]

theorem blockTurn_illegal {s : State} {e : IllFormed} (hb : s.status.busy = true) (hd : decode s.pending = .error e) :
    blockTurn s = .next (s.raise .unknownCmd) := by
  simp [blockTurn, hb, hd]

/-- Settles O5: the block's turn, listed or when no turn is left, executes the command. -/
theorem busyBlockExecutesThePendingCommand : Obligations.BusyBlockExecutesThePendingCommand := by
  intro s rest i hb hd
  rw [step_block, step_nil]
  exact ⟨blockTurn_command hb hd, blockTurn_command hb hd⟩

/-- Settles O7: the block's turn, listed or when no turn is left, keeps an idle state. -/
theorem idleBlockChangesNothing : Obligations.IdleBlockChangesNothing := by
  intro s rest hb
  rw [step_block, step_nil]
  exact ⟨blockTurn_idle hb, blockTurn_idle hb⟩

theorem exec_nop (s : State) : exec .nop s = .next s.complete := rfl

/-- Settles O26: NOP is the completion alone, which writes BUSY, ERR_CODE and the record of races. -/
theorem nopOnlyCompletes : Obligations.NopOnlyCompletes := exec_nop

/-! ## How a command ends (44_control.md R193, R197) -/

/-- No error carries the code OK (R200). -/
theorem Error.errCode_ne_ok (e : Error) : e.errCode ≠ .ok := by cases e <;> simp [Error.errCode]

/-- The staged writes of a command touch neither sticky bit. -/
theorem Staged.sticky_bits {i : Instr} {s u : State} (h : Staged i s u) :
    u.status.errSticky = s.status.errSticky ∧ u.status.overrun = s.status.overrun := by
  cases h with
  | widen | narrow => simp
  | nop | load | save | copy | zoom | step => exact ⟨rfl, rfl⟩

/-- What the turn of a busy block writes to STATUS (R193, R205). -/
theorem blockTurn_status {s t : State} (hb : s.status.busy = true) (h : blockTurn s = .next t) :
    t.status.busy = false ∧ t.status.overrun = s.status.overrun ∧
      t.status.errSticky = (s.status.errSticky || decide (t.status.errCode ≠ .ok)) := by
  obtain ⟨hidle, -⟩ | ⟨-, ⟨e, rfl⟩ | ⟨i, u, -, hu, rfl⟩⟩ := blockTurn_next h
  · simp [hidle] at hb
  · simp [e.errCode_ne_ok]
  · obtain ⟨hsticky, hoverrun⟩ := hu.sticky_bits
    simp [hsticky, hoverrun]

/-- The block's turn takes no turn but its own from the list. -/
theorem blockTurn_turns {s t : State} (h : blockTurn s = .next t) : t.turns = s.turns := by
  cases hb : s.status.busy with
  | false =>
    rw [blockTurn_idle hb] at h
    cases h; rfl
  | true =>
    cases hd : decode s.pending with
    | ok i =>
      rw [blockTurn_command hb hd] at h
      exact exec_turns h
    | error e =>
      rw [blockTurn_illegal hb hd] at h
      cases h; exact State.raise_turns ..

/-- Settles O22: the next turn is that of a busy block, and each way it can end writes STATUS so. -/
theorem completionWritesStatus : Obligations.CompletionWritesStatus := by
  intro s t hb hn h
  rw [step_of_nextTurn_block hn] at h
  exact blockTurn_status (s := s.withTurns s.turns.tail) hb h

/-- Settles O54: under the invariant the block's turn answers or is refused, and an answer ends the command. -/
theorem everyIssuedCommandCompletes : Obligations.EveryIssuedCommandCompletes := by
  intro s hs hb hn
  rw [step_of_nextTurn_block hn]
  obtain ⟨t, ht⟩ | hrefused := blockTurn_answers (hs.withTurns s.turns.tail)
  · obtain ⟨hidle, -, -⟩ := blockTurn_status (s := s.withTurns s.turns.tail) hb ht
    exact .inl ⟨t, ht, hidle, blockTurn_turns ht⟩
  · exact .inr hrefused

/-! ## The register window around a command (44_control.md R190, R195, R196) -/

/-- Settles O8: CMD stands at offset 0, and a write to it while BUSY = 0 is the issue of the word. -/
theorem cmdWriteIssuesTheWord : Obligations.CmdWriteIssuesTheWord := by
  intro s rest c hb
  rw [step_writeReg s rest (by decide), State.hostWrite_idle (s := s.withTurns rest) (r := .cmd) hb (by decide)]
  rfl

/-- While BUSY = 1 a write to any offset but that of STATUS sets OVERRUN and does nothing else (R195). -/
theorem State.hostWrite_busy {s : State} {n : Nat} (hb : s.status.busy = true) (hn : n ≠ 0x04) (v : Word) :
    s.hostWrite n v = { s with status := { s.status with overrun := true } } := by
  unfold State.hostWrite
  split
  · rename_i hr
    exact absurd (regAt_status hr) hn
  · exact if_pos hb

/-- Settles O9: the offset is that of STATUS, whose write is accepted, or another, whose write is dropped. -/
theorem writesWhileBusyAreDropped : Obligations.WritesWhileBusyAreDropped := by
  intro s rest o v hb ho _
  rw [step_writeReg s rest ho]
  split_ifs with hst
  · rw [hst, State.hostWrite_status (by decide)]
    rfl
  · have hne : o.toNat ≠ 0x04 := fun h => hst (BitVec.eq_of_toNat_eq h)
    rw [State.hostWrite_busy (s := s.withTurns rest) hb hne]
    rfl

/-- While BUSY = 1 a read of an unstable register returns the next free value and counts the draw (R196). -/
theorem State.hostRead_unstable {s : State} {n : Nat} {r : Reg} (hb : s.status.busy = true) (hu : r.unstable = true)
    (hr : regAt n = some r) : s.hostRead n = .next (s.returned (Config.busyRead s.draws)).drawn := by
  simp [State.hostRead, hr, hb, hu]

/-- Settles O17: the offsets of the first list are those of stable registers, those of the second of unstable ones. -/
theorem readsWhileBusy : Obligations.ReadsWhileBusy := by
  intro s rest hb
  constructor
  · intro e he
    have hstable : ∃ p ∈ registerMap, p.1 = e.1.toNat ∧ p.2.unstable = false ∧ s.regValue p.2 = some e.2 := by
      revert e
      simp [registerMap, Reg.unstable, State.regValue]
    obtain ⟨⟨_, r⟩, hat, rfl, hu, hv⟩ := hstable
    exact step_readReg_value rest (.inr hu) hat hv
  · intro o ho
    have hunstable : ∃ p ∈ registerMap, p.1 = o.toNat ∧ p.2.unstable = true := by
      revert o
      decide
    obtain ⟨⟨_, r⟩, hat, rfl, hu⟩ := hunstable
    refine ⟨Config.busyRead s.draws, ?_⟩
    rw [step_readReg s rest (registerMap_aligned hat),
      State.hostRead_unstable (s := s.withTurns rest) hb hu (regAt_of_mem hat)]
    rfl

end Sys2Proof.Machine

/-! # Exceptions

Every error but SHORT_READ leaves the one state `State.rejected`, and the error entry writes STATUS, the three ERR_ registers and the
record of races at most. The statements of 60_exceptions.md say which command ends so, and that nothing else of the state moves. -/

namespace Sys2Proof.Machine

/-! ## The error entry (60_exceptions.md R205) -/

/-- The error entry writes STATUS, the three ERR_ registers and the record of races, and no other field. -/
theorem State.raise_frame (s : State) (e : Error) :
    s.raise e = { s with
      status := { s.status with busy := false, errCode := e.errCode, errSticky := true }
      errSeg := (s.raise e).errSeg, errExpected := (s.raise e).errExpected, errActual := (s.raise e).errActual
      races := [] } := by
  cases e <;> rfl

/-- Only SHORT_READ writes the three ERR_ registers (R33). -/
theorem State.raise_errRegisters (s : State) {e : Error} (he : e.errCode ≠ .shortRead) :
    (s.raise e).errSeg = s.errSeg ∧ (s.raise e).errExpected = s.errExpected ∧ (s.raise e).errActual = s.errActual := by
  rw [s.raise_eq_rejected he]
  exact ⟨rfl, rfl, rfl⟩

/-- The turn of a busy block that ends with a code other than OK is an error entry: the other ways to end are completions. -/
theorem exists_raise_of_blockTurn {s t : State} (hb : s.status.busy = true) (h : blockTurn s = .next t)
    (he : t.status.errCode ≠ .ok) : ∃ e, t = s.raise e := by
  obtain ⟨hidle, -⟩ | ⟨-, hraise | ⟨i, u, -, -, rfl⟩⟩ := blockTurn_next h
  · exact absurd hb (Bool.eq_false_iff.1 hidle)
  · exact hraise
  · exact absurd rfl he

/-- Settles O23: the block's turn that ends in an error is the error entry from the state before it. -/
theorem errorsArePrecise : Obligations.ErrorsArePrecise := by
  intro s t hb hn h he
  rw [step_of_nextTurn_block hn] at h
  obtain ⟨e, rfl⟩ := exists_raise_of_blockTurn (s := s.withTurns s.turns.tail) hb h he
  rw [State.raise_status]
  exact ⟨State.raise_frame _ e, fun hcode => State.raise_errRegisters _ hcode⟩

/-! ## INVALID_ROI and UNKNOWN_CMD (60_exceptions.md R204, R207) -/

/-- Settles O45: with IN valid, the seven commands raise INVALID_ROI where their ROI does not fit. -/
theorem invalidRoiIsRejected : Obligations.InvalidRoiIsRejected := by
  intro i propose s hi hv hr
  rw [exec_of_roiOf_invalid hi hv hr, s.raise_eq_rejected (by decide)]
  rfl

/-- The block's turn on an ILLEGAL word, which is no SHORT_READ. -/
theorem blockTurn_illegal_rejected {s : State} {e : IllFormed} (hb : s.status.busy = true)
    (hd : decode s.pending = .error e) : blockTurn s = .next (s.rejected .unknownCmd) :=
  (blockTurn_illegal hb hd).trans (congrArg _ (s.raise_eq_rejected (by decide)))

/-- Settles O6: the block's turn, listed or when no turn is left, raises the error. -/
theorem illegalWordRaisesUnknownCmd : Obligations.IllegalWordRaisesUnknownCmd := by
  intro s rest e hb hd
  rw [step_block, step_nil]
  exact ⟨blockTurn_illegal_rejected hb hd, blockTurn_illegal_rejected hb hd⟩

/-! ## NO_DATA (60_exceptions.md R209) -/

/-- The commands that read IN are COPY and those that work at a ROI. -/
theorem readsIn_iff (i : Instr) : readsIn i = true ↔ i = .copy ∨ ∃ p, roiOf i = some p := by
  cases i <;> simp [readsIn, roiOf]

theorem execCopy_noData {s : State} (hv : s.status.inValid = false) : execCopy s = .next (s.raise .noData) :=
  if_neg (Bool.eq_false_iff.1 hv)

theorem convertInPlace_noData (f : Sample → Sample) {b : BufSel} {s : State} (hv : s.valid b = false) :
    convertInPlace f b s = .next (s.raise .noData) :=
  if_neg (Bool.eq_false_iff.1 hv)

theorem exec_readsIn_noData {i : Instr} {s : State} (hi : readsIn i = true) (hv : s.status.inValid = false) :
    exec i s = .next (s.raise .noData) := by
  obtain rfl | ⟨p, hp⟩ := (readsIn_iff i).1 hi
  · exact execCopy_noData hv
  · exact exec_of_roiOf_noData hp hv

/-- Settles O24: the VALID bit is the first check of every command that needs a buffer. -/
theorem commandsWithoutDataRaiseNoData : Obligations.CommandsWithoutDataRaiseNoData := by
  intro s
  have hend : s.raise .noData = s.rejected .noData := s.raise_eq_rejected (by decide)
  rw [← hend]
  refine ⟨fun i hi hv => exec_readsIn_noData hi hv, fun b hv => ⟨?_, ?_⟩, fun hv hw => ⟨?_, ?_⟩⟩
  · exact convertInPlace_noData Machine.widen hv
  · exact convertInPlace_noData Machine.narrow hv
  · exact exec_save_error rfl hw (State.saveCheck_noData hv)
  · exact exec_save_error rfl hw (State.saveCheck_noData hv)

end Sys2Proof.Machine

/-! # Reset and hazards

What reset leaves (70_reset_and_hazards.md R230, R231), and what the host reads of the destination of a pending SAVE (R237): the bytes
such a SAVE would write are those of the stream of OUT, so a read that is not memory's byte is the byte of one cell. -/

namespace Sys2Proof.Machine

/-! ## Reset (70_reset_and_hazards.md R230, R231) -/

/-- Settles O51: a reset of the machine after reset leaves what the invariant rests on as it is, and every reset meets it. -/
theorem resetMeetsTheInvariant : Obligations.ResetMeetsTheInvariant :=
  (State.resetBlock_inv State.reset_memory_wf).of_same_buffers ⟨rfl, rfl, rfl, rfl, rfl, rfl⟩ State.reset_memory_wf fun _ => rfl

/-- What reset keeps from the state before it, no register shows. -/
@[simp] theorem State.resetBlock_regValue (s : State) (r : Reg) : s.resetBlock.regValue r = State.reset.regValue r := by
  cases r <;> rfl

/-- Settles O20: the registers are those of the one state after reset, whose 26 values are evaluated. -/
theorem resetLeavesTheResetValues : Obligations.ResetLeavesTheResetValues := by
  intro s rest
  refine ⟨(s.withTurns rest).resetBlock, step_host s .reset rest, ?_, rfl, rfl, rfl⟩
  simp only [State.resetBlock_regValue]
  decide

/-! ## A host read of the destination of a pending SAVE (70_reset_and_hazards.md R237) -/

/-- A byte that a SAVE with this cell function would write is one of a cell of a valid OUT. -/
theorem State.saveImage_getElem? {s : State} {f : Sample → Sample} {k : Nat} {b : Byte} (h : (s.saveImage f)[k]? = some b) :
    s.status.outValid = true ∧ k < 2 * s.outGeom.cells ∧ ∃ v, s.outCells[k / 2]? = some v ∧ b = cellByte (f v) k := by
  unfold State.saveImage at h
  split at h
  · cases h
  · rename_i hc
    obtain ⟨hvalid, -, -⟩ := State.saveCheck_none_iff.1 hc
    rw [streamOf_getElem?, List.getElem?_map, List.getElem?_take] at h
    split_ifs at h with hk
    · obtain ⟨v, hv, rfl⟩ : ∃ v, s.outCells[k / 2]? = some v ∧ cellByte (f v) k = b := by simpa using h
      exact ⟨hvalid, by omega, v, hv, rfl⟩
    · cases h

/-- Only SAVE and SAVE.N have bytes to write, each with its cell function. -/
theorem State.pendingImage_getElem? {s : State} {k : Nat} {b : Byte} (h : s.pendingImage[k]? = some b) :
    ∃ i f, decode s.pending = .ok i ∧ savedAs i = some f ∧ (s.saveImage f)[k]? = some b := by
  unfold State.pendingImage at h
  split at h
  · exact ⟨.save, id, by assumption, rfl, h⟩
  · exact ⟨.saveN, narrow, by assumption, rfl, h⟩
  · cases h

/-- The byte that a pending SAVE would write at an address: whose it is and where it comes from. -/
theorem State.pendingByte_some {s : State} {a : Nat} {b : Byte} (h : s.pendingByte a = some b) :
    ∃ i f k v, s.status.busy = true ∧ decode s.pending = .ok i ∧ savedAs i = some f ∧ s.status.outValid = true ∧
      a = s.dstBase.toNat + k ∧ k < 2 * s.outGeom.cells ∧ s.outCells[k / 2]? = some v ∧ b = cellByte (f v) k := by
  unfold State.pendingByte at h
  split_ifs at h with hc
  obtain ⟨hbusy, hle⟩ : s.status.busy = true ∧ s.dstBase.toNat ≤ a := by simpa using hc
  obtain ⟨i, f, hdecode, hsaved, himage⟩ := State.pendingImage_getElem? h
  obtain ⟨hvalid, hk, v, hv, hbyte⟩ := State.saveImage_getElem? himage
  exact ⟨i, f, a - s.dstBase.toNat, v, hbusy, hdecode, hsaved, hvalid, by omega, hk, hv, hbyte⟩

/-- A host read outside the window returns memory's byte or the one that a pending SAVE would write (R237). -/
theorem State.hostLoad_cases (s : State) (a : Nat) :
    ∃ b d, s.hostLoad a = { s with lastRead := some (.memory b), draws := d } ∧
      (b = s.mem.read a ∨ s.pendingByte a = some b) := by
  unfold State.hostLoad
  cases hp : s.pendingByte a with
  | none => exact ⟨s.mem.read a, s.draws, rfl, .inl rfl⟩
  | some v =>
    refine ⟨s.pick 0 v [s.mem.read a], s.draws + 1, rfl, ?_⟩
    obtain hnew | hold := List.mem_cons.1 (s.pick_mem 0 v [s.mem.read a])
    · exact .inr (congrArg some hnew.symm)
    · exact .inl (List.mem_singleton.1 hold)

/-- A host read outside the window is not refused. -/
theorem step_readMem (s : State) (rest : List Turn) {addr : Word}
    (ha : ¬ (regBase ≤ addr.toNat ∧ addr.toNat < regBase + 0x80)) :
    step (s.withTurns (.host (.readMem addr) :: rest)) = .next ((s.withTurns rest).hostLoad addr.toNat) := by
  rw [step_host, hostTurn, if_neg (mt (inWindow_iff _).1 ha)]

/-- Settles O19: the read is memory's byte or the pending SAVE's, which is the byte of a cell of OUT. -/
theorem hostReadDuringSaveIsOldOrNew : Obligations.HostReadDuringSaveIsOldOrNew := by
  intro s rest addr ha
  obtain ⟨b, d, hload, hbyte⟩ := (s.withTurns rest).hostLoad_cases addr.toNat
  exact ⟨b, d, (step_readMem s rest ha).trans (congrArg _ hload), hbyte.imp id State.pendingByte_some⟩

end Sys2Proof.Machine

/-! # One row for each word

A word that matches a row is the word of the row's command, and each command stands in one row of the opcode table
(30_encoding.md R96). -/

namespace Sys2Proof

theorem encode_injective : Function.Injective encode := by
  intro i j h
  have hdecode : decode (encode i) = decode (encode j) := by rw [h]
  simpa using hdecode

/-- The place of a command's row in the opcode table (R95). -/
def Instr.rowNumber : Instr → Nat
  | .nop => 0 | .load => 1 | .loadW => 2 | .save => 3 | .saveN => 4
  | .widen _ => 5 | .narrow _ => 6 | .copy => 7 | .zoom => 8
  | .zin => 9 | .zout => 10 | .panl => 11 | .panr => 12 | .panu => 13 | .pand => 14

theorem rowNumber_of_getElem? {n : Nat} {r : Row} (h : opcodeTable[n]? = some r) (w : Word) :
    (r.instr w).rowNumber = n := by
  have hn : n < 15 := (List.getElem?_eq_some_iff.1 h).1
  interval_cases n <;> (cases h; rfl)

/-- Settles O4: two rows that match a word have the same command, so the same place. -/
theorem atMostOneRowMatches : Obligations.AtMostOneRowMatches := by
  intro w i j r q hr hq hwr hwq
  have hword : encode (r.instr w) = encode (q.instr w) :=
    (eq_encode_of_matches (List.mem_of_getElem? hr) hwr).symm.trans (eq_encode_of_matches (List.mem_of_getElem? hq) hwq)
  calc i = (r.instr w).rowNumber := (rowNumber_of_getElem? hr w).symm
    _ = (q.instr w).rowNumber := by rw [encode_injective hword]
    _ = j := rowNumber_of_getElem? hq w

end Sys2Proof

/-! # Writes to the register window

The unmapped offsets, and the write to a writable register while BUSY = 0: the rest of the statements of 10_state.md. -/

namespace Sys2Proof.Machine

/-! ## Unmapped offsets (10_state.md R21) -/

/-- The register map ends with BUF_DATA at 0x64. -/
theorem regAt_unmapped {n : Nat} (hn : 0x68 ≤ n) : regAt n = none := by
  by_contra hne
  obtain ⟨r, hr⟩ := Option.ne_none_iff_exists'.1 hne
  have hle : n ≤ 0x64 := (show ∀ e ∈ registerMap, e.1 ≤ 0x64 by decide) _ (regAt_mem hr)
  omega

/-- A write to an unmapped offset sets OVERRUN while BUSY = 1 and does nothing while BUSY = 0 (notes/assumptions 10). -/
theorem State.hostWrite_unmapped {s : State} {n : Nat} (hn : regAt n = none) (v : Word) :
    s.hostWrite n v = { s with status := { s.status with overrun := s.status.overrun || s.status.busy } } := by
  by_cases hb : s.status.busy = true
  · simp [State.hostWrite, hn, hb]
  · have hkeep : s.hostWrite n v = s := by simp [State.hostWrite, hn, hb]
    have hoverrun : (s.status.overrun || s.status.busy) = s.status.overrun := by simp [hb]
    rw [hkeep, hoverrun]

/-- Settles O10: no register stands at such an offset, so a write falls through to OVERRUN and a read to 0. -/
theorem unmappedOffsets : Obligations.UnmappedOffsets := by
  intro s rest o v ho hn
  have hat := regAt_unmapped hn
  rw [step_writeReg s rest ho, step_readReg s rest ho, State.hostWrite_unmapped hat, State.hostRead, hat]
  exact ⟨rfl, rfl⟩

/-! ## Writable registers (10_state.md R23 to R26, R31, R32, R34) -/

/-- The registers that a write while BUSY = 0 sets, each with its bits that do not read as zero; CMD and STATUS have rules of their own. -/
def Reg.writeMask : Reg → Option Word
  | .ctrl   => some 3
  | .bufSel => some 1
  | .layout | .frameH | .frameW | .roiX | .roiY | .roiW | .roiH | .srcBase | .srcLen | .dstBase | .dstCap | .bufIdx =>
    some 0xFFFFFFFF
  | _ => none

/-- The two low bits of a word as a number. -/
theorem ofNat_two_bits (v : Word) : BitVec.ofNat 32 ((v.getLsbD 0).toNat + 2 * (v.getLsbD 1).toNat) = v &&& 3 := by
  apply BitVec.eq_of_toNat_eq
  have hmask : v.toNat &&& 3 = v.toNat % 4 := Nat.and_two_pow_sub_one_eq_mod v.toNat 2
  have hbit (i : Nat) : (v.getLsbD i).toNat = v.toNat / 2 ^ i % 2 := Nat.toNat_testBit ..
  rw [BitVec.toNat_ofNat, BitVec.toNat_and, hbit, hbit, show (3 : Word).toNat = 3 from rfl, hmask]
  omega

/-- BUF_SEL keeps bit 0 of the word written (R34). -/
theorem bufCode_of_bit (v : Word) : bufCode (if v.getLsbD 0 = true then .outBuf else .inBuf) = v &&& 1 := by
  rw [show (1 : Word) = BitVec.twoPow 32 0 from rfl, BitVec.and_twoPow]
  cases v.getLsbD 0 <;> rfl

theorem State.storeReg_regValue_same (s : State) {r : Reg} {m : Word} (hr : r.writeMask = some m) (v : Word) :
    (s.storeReg r v).regValue r = some (v &&& m) := by
  cases r <;> cases hr
  case ctrl => exact congrArg some (ofNat_two_bits v)
  case bufSel => exact congrArg some (bufCode_of_bit v)
  all_goals exact congrArg some (BitVec.and_allOnes (x := v)).symm

/-- No register but BUF_DATA, which is computed, shows the write of another: each of the others reads a field of its own. -/
theorem State.storeReg_regValue_other (s : State) {r q : Reg} {m : Word} (hr : r.writeMask = some m) (v : Word)
    (hq : q ≠ r) (hd : q ≠ .bufData) : (s.storeReg r v).regValue q = s.regValue q := by
  cases r <;> cases hr <;> cases q <;> first | rfl | contradiction

/-- What the write of a writable register leaves alone beside the other registers. -/
theorem State.storeReg_frame (s : State) {r : Reg} {m : Word} (hr : r.writeMask = some m) (v : Word) :
    let t := s.storeReg r v
    t.status = s.status ∧ t.inCells = s.inCells ∧ t.outCells = s.outCells ∧ t.mem = s.mem ∧ t.pending = s.pending ∧
      t.turns = s.turns ∧ t.lastRead = s.lastRead ∧ t.races = s.races ∧ t.draws = s.draws := by
  cases r <;> cases hr <;> exact ⟨rfl, rfl, rfl, rfl, rfl, rfl, rfl, rfl, rfl⟩

/-- Settles O12: each entry of the list is the offset of a writable register with its mask. -/
theorem idleWriteSetsOnlyItsRegister : Obligations.IdleWriteSetsOnlyItsRegister := by
  intro s rest v hb e he
  have hentry : (e.1.toNat, e.2.1) ∈ registerMap ∧ e.2.1.writeMask = some e.2.2 := by
    revert e
    decide
  obtain ⟨hat, hmask⟩ := hentry
  refine ⟨(s.withTurns rest).storeReg e.2.1 v, ?_, State.storeReg_regValue_same _ hmask v, fun r hne hdata => ?_,
    State.storeReg_frame (s.withTurns rest) hmask v⟩
  · rw [step_writeReg s rest (registerMap_aligned hat), State.hostWrite_idle (s := s.withTurns rest) hb (regAt_of_mem hat)]
  · rw [State.storeReg_regValue_other _ hmask v hne hdata, State.regValue_withTurns]

end Sys2Proof.Machine

/-! # Reset during a SAVE, and the refusals

What a reset does to the destination of a pending SAVE (70_reset_and_hazards.md R232), and which commands are refused (20_memory.md R81). -/

namespace Sys2Proof.Machine

/-! ## Host memory after a reset (70_reset_and_hazards.md R232) -/

/-- A byte of memory after a reset is the old one, or the one that a pending SAVE would have written. -/
theorem State.memAfterReset_read (s : State) (a : Nat) :
    s.memAfterReset.read a = s.mem.read a ∨ s.pendingByte a = some (s.memAfterReset.read a) := by
  unfold State.memAfterReset
  split_ifs with hb
  · rw [Memory.read_store]
    split_ifs with hlt
    · exact .inl rfl
    · cases hi : s.pendingImage[a - s.dstBase.toNat]? with
      | none =>
        have hnone : (s.settle (fun _ => true) 0 s.pendingImage)[a - s.dstBase.toNat]? = none := by
          simpa [List.getElem?_eq_none_iff] using hi
        exact .inl (by rw [hnone]; rfl)
      | some b =>
        obtain ⟨c, hc, hcase⟩ := s.settle_getElem? (fun _ => true) 0 _ _ hi
        rw [hc]
        obtain rfl | ⟨-, hold⟩ := hcase
        · exact .inr (by simpa [State.pendingByte, hb, Nat.le_of_not_lt hlt] using hi)
        · rw [show s.dstBase.toNat + (0 + (a - s.dstBase.toNat)) = a by omega] at hold
          exact .inl hold
  · exact .inl rfl

/-- Only SAVE and SAVE.N have bytes to write. -/
theorem State.pendingImage_eq_nil {s : State} (h : ∀ i f, decode s.pending = .ok i → savedAs i ≠ some f) :
    s.pendingImage = [] := by
  unfold State.pendingImage
  split
  · exact absurd rfl (h .save id (by assumption))
  · exact absurd rfl (h .saveN narrow (by assumption))
  · rfl

theorem State.memAfterReset_of_no_save {s : State} (h : s.status.busy = false ∨ s.pendingImage = []) :
    s.memAfterReset = s.mem := by
  obtain hb | hi := h
  · simp [State.memAfterReset, hb]
  · simp [State.memAfterReset, hi, State.settle, Memory.store]

/-- Settles O21: reset answers with the memory above, whose new bytes are those of cells of OUT. -/
theorem resetDuringSaveLeavesOldOrNewBytes : Obligations.ResetDuringSaveLeavesOldOrNewBytes := by
  intro s rest
  refine ⟨(s.withTurns rest).resetBlock, step_host s .reset rest, rfl, fun hb => ?_, fun a => ?_, fun hno => ?_⟩
  · exact State.memAfterReset_of_no_save (s := s.withTurns rest) (.inl hb)
  · exact ((s.withTurns rest).memAfterReset_read a).imp id State.pendingByte_some
  · exact State.memAfterReset_of_no_save (s := s.withTurns rest) (.inr (State.pendingImage_eq_nil hno))

/-! ## Refusals (20_memory.md R81) -/

/-- `withCells` refuses only what its continuation refuses. -/
theorem State.withCells_ne_refused {s : State} {b : BufSel} {k : List Sample → Out} {r : Refusal}
    (hk : ∀ cells, k cells ≠ .refused r) : s.withCells b k ≠ .refused r := by
  unfold State.withCells
  split_ifs
  · exact hk _
  · simp

theorem loadCommand_refused_iff (f : Sample → Sample) (s : State) (r : Refusal) :
    loadCommand f s = .refused r ↔ r = .streamOverlapsWindow ∧ MeetsWindow s.srcBase.toNat s.srcEff := by
  rw [← meetsWindow_iff, ← State.srcMeetsWindow, loadCommand]
  split_ifs with hw <;> simp [hw, eq_comm]

theorem saveFrame_ne_refused (f : Sample → Sample) (s : State) (r : Refusal) : saveFrame f s ≠ .refused r := by
  unfold saveFrame
  split
  · simp
  · exact State.withCells_ne_refused (by simp)

theorem saveCommand_refused_iff (f : Sample → Sample) (s : State) (r : Refusal) :
    saveCommand f s = .refused r ↔ r = .streamOverlapsWindow ∧ MeetsWindow s.dstBase.toNat s.dstEff := by
  rw [← meetsWindow_iff, ← State.dstMeetsWindow, saveCommand]
  split_ifs with hw
  · simp [hw, eq_comm]
  · simp [hw, saveFrame_ne_refused]

theorem convertInPlace_ne_refused (f : Sample → Sample) (b : BufSel) (s : State) (r : Refusal) :
    convertInPlace f b s ≠ .refused r := by
  unfold convertInPlace
  split_ifs
  · exact State.withCells_ne_refused (by simp)
  · simp

theorem execCopy_ne_refused (s : State) (r : Refusal) : execCopy s ≠ .refused r := by
  unfold execCopy
  split_ifs
  · exact State.withCells_ne_refused (by simp)
  · simp

theorem State.zoomAt_ne_refused (s : State) (z : Roi) (r : Refusal) : s.zoomAt z ≠ .refused r :=
  State.withCells_ne_refused (by simp)

theorem execZoom_ne_refused (s : State) (r : Refusal) : execZoom s ≠ .refused r := by
  unfold execZoom
  split_ifs <;> simp [State.zoomAt_ne_refused]

theorem roiStep_ne_refused (p : Roi → Roi) (s : State) (r : Refusal) : roiStep p s ≠ .refused r := by
  unfold roiStep
  split_ifs <;> simp [State.zoomAt_ne_refused]

/-- A command that is no LOAD and no SAVE uses no stream, and is not refused. -/
theorem exec_ne_refused {i : Instr} (hl : loadedAs i = none) (hs : savedAs i = none) (s : State) (r : Refusal) :
    exec i s ≠ .refused r := by
  cases i with
  | nop => simp [exec_nop]
  | load | loadW => simp [loadedAs] at hl
  | save | saveN => simp [savedAs] at hs
  | widen b | narrow b => exact convertInPlace_ne_refused _ b s r
  | copy => exact execCopy_ne_refused s r
  | zoom => exact execZoom_ne_refused s r
  | zin | zout | panl | panr | panu | pand => exact roiStep_ne_refused _ s r

/-- Settles O25: a LOAD and a SAVE ask about their own stream before anything else, and no other command asks. -/
theorem refusedExactlyWhereTheStreamMeetsTheWindow : Obligations.RefusedExactlyWhereTheStreamMeetsTheWindow := by
  intro i s r
  cases i with
  | load => exact (loadCommand_refused_iff id s r).trans (by simp [State.srcEff, effectiveLength])
  | loadW => exact (loadCommand_refused_iff Machine.widen s r).trans (by simp [State.srcEff, effectiveLength])
  | save => exact (saveCommand_refused_iff id s r).trans (by simp [State.dstEff, effectiveLength])
  | saveN => exact (saveCommand_refused_iff Machine.narrow s r).trans (by simp [State.dstEff, effectiveLength])
  | nop | widen | narrow | copy | zoom | zin | zout | panl | panr | panu | pand =>
    exact iff_of_false (exec_ne_refused rfl rfl s r) (by simp)

end Sys2Proof.Machine

/-! # Commands in sequence

A conversion after a LOAD or before a SAVE is the C flag's, and LOAD, COPY and SAVE in a row carry a frame through: the inferences that
40_codec.md R114 and R120 and 41_bitdepth.md R133 and R134 draw. -/

namespace Sys2Proof.Machine

/-! ## The cell functions undo each other (41_bitdepth.md R134) -/

theorem narrow_widen {v : Sample} (hv : v.toNat ≤ 1023) : narrow (widen v) = v := by
  apply BitVec.eq_of_toNat_eq
  rw [narrow_toNat, widen_toNat_of_le hv, Nat.mul_div_cancel _ (by decide)]

/-- Settles O38: a narrowed cell has ten bits, so its widening is the multiple of 64 below the cell. -/
theorem widenAndNarrowCancel : Obligations.WidenAndNarrowCancel := by
  intro v
  refine ⟨narrow_widen, ?_⟩
  have hten : (narrow v).toNat ≤ 1023 := (narrowDividesBy64 v).2
  rw [widen_toNat_of_le hten, narrow_toNat]
  omega

/-! ## LOAD and WIDEN IN (40_codec.md R114) -/

/-- The state after a LOAD with this cell function that passes its checks. -/
def State.loaded (f : Sample → Sample) (g : Geometry) (s : State) : State :=
  (s.commitIn ((s.srcCells g.cells).map f) g).drawn.complete

theorem overlay_overlay {new mid : List Sample} (h : new.length = mid.length) (old : List Sample) :
    overlay new (overlay mid old) = overlay new old := by
  simp [overlay, h]

/-- The meaningful cells of IN after a LOAD are the loaded ones. -/
theorem State.loaded_take (f : Sample → Sample) (g : Geometry) (s : State) :
    (s.loaded f g).inCells.take g.cells = (s.srcCells g.cells).map f := by
  have htake := overlay_take ((s.srcCells g.cells).map f) s.inCells
  rwa [List.length_map, State.srcCells_length] at htake

theorem State.loaded_held (f : Sample → Sample) (g : Geometry) (s : State) : (s.loaded f g).Held .inBuf := by
  simp [State.loaded]

/-- Widening what LOAD left in IN is loading with the widening. -/
theorem State.loaded_converted (g : Geometry) (s : State) :
    (s.loaded id g).converted widen .inBuf = s.loaded widen g := by
  have hcells : ((s.loaded id g).converted widen .inBuf).inCells = (s.loaded widen g).inCells :=
    calc ((s.loaded id g).converted widen .inBuf).inCells
        = overlay (((s.loaded id g).inCells.take g.cells).map widen) (s.loaded id g).inCells :=
          State.converted_cells widen .inBuf (s.loaded id g)
      _ = overlay ((s.srcCells g.cells).map widen) (overlay ((s.srcCells g.cells).map id) s.inCells) := by
          rw [State.loaded_take, List.map_map, Function.comp_id]
          rfl
      _ = (s.loaded widen g).inCells := overlay_overlay (by simp) _
  calc (s.loaded id g).converted widen .inBuf
      = { s.loaded widen g with inCells := ((s.loaded id g).converted widen .inBuf).inCells } := rfl
    _ = s.loaded widen g := by rw [hcells]

/-- Settles O30: a LOAD that ends with OK has passed its checks, and IN is then valid and held for WIDEN. -/
theorem loadThenWidenIsLoadW : Obligations.LoadThenWidenIsLoadW := by
  intro s t h hok
  obtain ⟨hw, ⟨e, -, rfl⟩ | ⟨g, hc, rfl⟩⟩ := loadCommand_next h
  · rw [State.raise_status] at hok
    exact absurd hok e.errCode_ne_ok
  · calc exec (.widen .inBuf) (s.loaded id g)
        = .next ((s.loaded id g).converted widen .inBuf) := convertInPlace_ok rfl (State.loaded_held id g s)
      _ = .next (s.loaded widen g) := by rw [State.loaded_converted]
      _ = exec .loadW s := (loadCommand_ok hw hc).symm

/-! ## NARROW OUT and SAVE (41_bitdepth.md R133) -/

/-- Where no byte is undecided, the bytes are the command's. -/
theorem State.settle_decided (s : State) {u : Nat → Bool} (hu : ∀ a, u a = false) (k : Nat) (bs : List Byte) :
    s.settle u k bs = bs := by
  induction bs generalizing k with
  | nil => rfl
  | cons b bs ih => simp [State.settle, hu, ih]

/-- Without a race a SAVE stores the stream of OUT. -/
theorem State.saved_mem {s : State} (hr : s.races = []) (f : Sample → Sample) :
    (s.saved f).mem = s.mem.store s.dstBase.toNat (streamOf ((s.outCells.take s.outGeom.cells).map f)) := by
  rw [State.saved, State.complete_mem, State.drawn_mem, State.settle_decided s (by simp [State.replacedAt, hr])]

/-- The meaningful cells of a converted OUT are the converted ones. -/
theorem State.converted_take {s : State} {b : BufSel} (hh : s.Held b) (f : Sample → Sample) :
    ((s.converted f b).cells b).take (s.geom b).cells = ((s.cells b).take (s.geom b).cells).map f := by
  have htake := overlay_take (((s.cells b).take (s.geom b).cells).map f) (s.cells b)
  rwa [List.length_map, hh.take_length, ← State.converted_cells] at htake

theorem State.converted_held {s : State} {b : BufSel} (hh : s.Held b) (f : Sample → Sample) :
    (s.converted f b).Held b := by
  have hgeom : (s.converted f b).geom b = s.geom b := by cases b <;> rfl
  rw [State.Held, hgeom, State.converted_cells, overlay_length]
  exact le_max_of_le_right hh

/-- Settles O35: both ways store the same stream over the same memory. -/
theorem narrowThenSaveWritesWhatSaveNWrites : Obligations.NarrowThenSaveWritesWhatSaveNWrites := by
  intro s hv _ hh he hroom hw hr
  have hcheck : s.saveCheck = none := State.saveCheck_none_iff.2 ⟨hv, he, hroom⟩
  refine ⟨s.converted narrow .outBuf, (s.converted narrow .outBuf).saved id, s.saved narrow,
    convertInPlace_ok hv hh, ?_, exec_save_ok rfl hw hcheck hh, ?_, rfl⟩
  · exact exec_save_ok (s := s.converted narrow .outBuf) rfl hw hcheck (State.converted_held hh narrow)
  · have htake : (s.converted narrow .outBuf).outCells.take s.outGeom.cells =
        (s.outCells.take s.outGeom.cells).map narrow := State.converted_take hh narrow
    calc ((s.converted narrow .outBuf).saved id).mem
        = s.mem.store s.dstBase.toNat
            (streamOf (((s.converted narrow .outBuf).outCells.take s.outGeom.cells).map id)) := State.saved_mem rfl id
      _ = (s.saved narrow).mem := by rw [htake, List.map_id, State.saved_mem hr]

/-! ## LOAD, COPY and SAVE (40_codec.md R120) -/

/-- The two bytes of a cell are those it was made of (R62). -/
theorem cellByte_le16 (b0 b1 : Byte) (k : Nat) : cellByte (le16 b0 b1) k = if k % 2 = 0 then b0 else b1 := by
  have h0 := b0.isLt
  have h1 := b1.isLt
  unfold cellByte
  split_ifs <;> apply BitVec.eq_of_toNat_eq <;>
    simp only [le16, BitVec.extractLsb'_toNat, BitVec.toNat_ofNat, Nat.shiftRight_eq_div_pow] <;> omega

/-- The state after a COPY of a held IN. -/
def State.copied (s : State) : State := s.outFilled (s.inCells.take s.inGeom.cells)

theorem State.copied_cell {s : State} (hh : s.Held .inBuf) {k : Nat} (hk : k < s.inGeom.cells) :
    s.copied.outCells[k]? = s.inCells[k]? :=
  (State.outFilled_cell_inside hh.take_length hk).trans (List.getElem?_take_of_lt hk)

theorem State.copied_held {s : State} (hh : s.Held .inBuf) : s.copied.Held .outBuf := by
  have hlen : (s.inCells.take s.inGeom.cells).length = s.inGeom.cells := hh.take_length
  rw [State.held_outBuf]
  exact hlen.symm.le.trans ((le_max_left _ _).trans_eq (overlay_length _ _).symm)

/-- Without a race a SAVE leaves the bytes of its cells. -/
theorem State.saved_read_of_no_race {s : State} (hr : s.races = []) (f : Sample → Sample) {k : Nat} {v : Sample}
    (hk : k / 2 < s.outGeom.cells) (hv : s.outCells[k / 2]? = some v) :
    (s.saved f).mem.read (s.dstBase.toNat + k) = cellByte (f v) k := by
  obtain h | ⟨⟨b, hb⟩, -⟩ := State.saved_read_inside f hk hv
  · exact h
  · simp [hr] at hb

/-- Cell k of the stream that memory holds from an address on (R62). -/
def cellAt (m : Memory) (a k : Nat) : Sample := le16 (m.read (a + 2 * k)) (m.read (a + (2 * k + 1)))

/-- A cell of OUT after a LOAD and a COPY, no byte of the source raced: the cell function of its two bytes of memory. -/
theorem State.loaded_copied_cell {s : State} (hr : s.races = []) (f : Sample → Sample) (g : Geometry) {k : Nat}
    (hk : k < g.cells) :
    (s.loaded f g).copied.outCells[k]? = some (f (cellAt s.mem s.srcBase.toNat k)) := by
  rw [State.copied_cell (State.loaded_held f g s) hk, cellAt, ← State.srcByte_of_no_race hr, ← State.srcByte_of_no_race hr]
  exact s.loaded_cell f s.inCells hk

/-- Byte k of a stream in memory is a byte of its cell k / 2. -/
theorem cellByte_cellAt (m : Memory) (a k : Nat) : cellByte (cellAt m a (k / 2)) k = m.read (a + k) := by
  rw [cellAt, cellByte_le16]
  split_ifs with h
  · rw [show 2 * (k / 2) = k by omega]
  · rw [show 2 * (k / 2) + 1 = k by omega]

/-- A LOAD, a COPY and a SAVE carry the source's bytes to the destination where the SAVE's cell function undoes the LOAD's. -/
theorem load_copy_save {s : State} {g : Geometry} {first last : Instr} {f f' : Sample → Sample}
    (hfirst : loadedAs first = some f) (hlast : savedAs last = some f')
    (hsrc : ¬ MeetsWindow s.srcBase.toNat s.srcEff) (hdst : ¬ MeetsWindow s.dstBase.toNat s.dstEff)
    (hload : s.loadCheck = .ok g) (hen : s.dstEn = true) (hroom : 3 * g.h.toNat * g.w.toNat ≤ s.dstEff) (hr : s.races = [])
    (hundo : ∀ k, k < g.cells → f' (f (cellAt s.mem s.srcBase.toNat k)) = cellAt s.mem s.srcBase.toNat k) :
    ∃ s1 s2 t, exec first s = .next s1 ∧ exec .copy s1 = .next s2 ∧ exec last s2 = .next t ∧
      ∀ k, k < 3 * g.h.toNat * g.w.toNat →
        t.mem.read (s.dstBase.toNat + k) = s.mem.read (s.srcBase.toNat + k) := by
  have hheld := State.loaded_held f g s
  have hcheck : (s.loaded f g).copied.saveCheck = none := State.saveCheck_none_iff.2 ⟨rfl, hen, hroom⟩
  refine ⟨s.loaded f g, (s.loaded f g).copied, (s.loaded f g).copied.saved f', exec_load_ok hfirst hsrc hload,
    execCopy_ok rfl hheld, exec_save_ok hlast hdst hcheck (State.copied_held hheld), fun k hk => ?_⟩
  have hcell : k / 2 < g.cells := by
    rw [(State.loadCheck_legal hload).bytes_eq] at hk
    omega
  calc ((s.loaded f g).copied.saved f').mem.read (s.dstBase.toNat + k)
      = cellByte (f' (f (cellAt s.mem s.srcBase.toNat (k / 2)))) k :=
        State.saved_read_of_no_race (s := (s.loaded f g).copied) rfl f' hcell (State.loaded_copied_cell hr f g hcell)
    _ = s.mem.read (s.srcBase.toNat + k) := by rw [hundo _ hcell, cellByte_cellAt]

/-- Settles O34: SAVE and LOAD keep every cell, and SAVE.N undoes LOAD.W on the cells whose odd byte is at most 3. -/
theorem frameRoundTrip : Obligations.FrameRoundTrip := by
  intro s l hl hf hsrcEn hdstEn hsrc hdst hlen hroom hr carries
  have hload := State.loadCheck_ok hl hf hsrcEn hlen
  refine ⟨load_copy_save rfl rfl hsrc hdst hload hdstEn hroom hr fun _ _ => rfl, fun hten => ?_⟩
  refine load_copy_save rfl rfl hsrc hdst hload hdstEn hroom hr fun k hk => narrow_widen ?_
  have hodd := hten k hk
  have heven := (s.mem.read (s.srcBase.toNat + 2 * k)).isLt
  rw [cellAt, le16, BitVec.toNat_ofNat, ← Nat.add_assoc]
  omega

end Sys2Proof.Machine

/-! # Plane views

Each view of a legal frame is a run of cells, consecutive or, for the interleaved chroma, every second one; the runs partition the
buffer (20_memory.md R73), and at a valid ROI each crop lies inside its view (42_resampler.md R148). -/

namespace Sys2Proof.Machine

/-! ## Row-major places -/

theorem rowMajor_exists {rows cols j : Nat} (hj : j < rows * cols) : ∃ r c, r < rows ∧ c < cols ∧ r * cols + c = j := by
  have hpos : 0 < cols := Nat.pos_of_ne_zero fun h => by simp [h] at hj
  exact ⟨j / cols, j % cols, Nat.div_lt_of_lt_mul (by rwa [Nat.mul_comm]), Nat.mod_lt _ hpos, Nat.div_add_mod' j cols⟩

theorem rowMajor_lt {rows cols r c : Nat} (hr : r < rows) (hc : c < cols) : r * cols + c < rows * cols :=
  calc r * cols + c < (r + 1) * cols := by rw [Nat.succ_mul]; omega
    _ ≤ rows * cols := Nat.mul_le_mul_right cols hr

theorem rowMajor_injective {cols r c r' c' : Nat} (hc : c < cols) (hc' : c' < cols)
    (h : r * cols + c = r' * cols + c') : r = r' ∧ c = c' := by
  have key : ∀ a b, b < cols → (a * cols + b) / cols = a ∧ (a * cols + b) % cols = b := fun a b hb => by
    exact ⟨by rw [Nat.mul_comm, Nat.mul_add_div (by omega), Nat.div_eq_of_lt hb, Nat.add_zero], Nat.mul_add_mod_of_lt hb⟩
  obtain ⟨hdiv, hmod⟩ := key r c hc
  obtain ⟨hdiv', hmod'⟩ := key r' c' hc'
  exact ⟨by rw [← hdiv, h, hdiv'], by rw [← hmod, h, hmod']⟩

/-! ## The run of each view (20_memory.md R70 to R73) -/

/-- Where view n of a frame with m cells in each chroma plane begins. -/
def viewStart (m : Nat) : Layout → Nat → Nat
  | _, 0               => 0
  | .planar, n + 1     => 4 * m + n * m
  | .semiPlanar, n + 1 => 4 * m + n

/-- How far apart the cells of view n stand. -/
def viewStride : Layout → Nat → Nat
  | .semiPlanar, _ + 1 => 2
  | _, _               => 1

/-- The number of cells of view n. -/
def viewSize (m : Nat) : Nat → Nat
  | 0     => 4 * m
  | _ + 1 => m

theorem viewRun_exists {m k : Nat} (l : Layout) (hk : k < 6 * m) :
    ∃ n j, n < 3 ∧ j < viewSize m n ∧ viewStart m l n + viewStride l n * j = k := by
  by_cases h4 : k < 4 * m
  · exact ⟨0, k, by omega, h4, by simp [viewStart, viewStride]⟩
  · cases l with
    | planar =>
      by_cases h5 : k < 5 * m
      · exact ⟨1, k - 4 * m, by omega, by simp [viewSize]; omega, by simp [viewStart, viewStride]; omega⟩
      · exact ⟨2, k - 5 * m, by omega, by simp [viewSize]; omega, by simp [viewStart, viewStride]; omega⟩
    | semiPlanar =>
      exact ⟨1 + (k - 4 * m) % 2, (k - 4 * m) / 2, by omega, by simp [Nat.add_comm 1, viewSize]; omega,
        by simp [Nat.add_comm 1, viewStart, viewStride]; omega⟩

theorem viewRun_injective {m n j n' j' : Nat} (l : Layout) (hn : n < 3) (hn' : n' < 3) (hj : j < viewSize m n)
    (hj' : j' < viewSize m n')
    (h : viewStart m l n + viewStride l n * j = viewStart m l n' + viewStride l n' * j') : n = n' ∧ j = j' := by
  cases l <;> interval_cases n <;> interval_cases n' <;> simp only [viewSize] at hj hj' <;>
    simp only [viewStart, viewStride] at h <;> omega

theorem views_length (g : Geometry) : (views g).length = 3 := by
  simp only [views]
  cases g.layout <;> rfl

theorem views_getElem? (g : Geometry) {n : Nat} (hn : n < 3) : ∃ V, (views g)[n]? = some V :=
  ⟨_, List.getElem?_eq_getElem (views_length g ▸ hn)⟩

/-- The views of a legal frame, as runs. -/
theorem views_run {g : Geometry} (hg : g.Legal) :
    ∃ m, g.cells = 6 * m ∧ ∀ n V, (views g)[n]? = some V → n < 3 ∧ V.rows * V.cols = viewSize m n ∧
      ∀ r c, V.index r c = viewStart m g.layout n + viewStride g.layout n * (r * V.cols + c) := by
  obtain ⟨p, q, hp, hq, -, -, hhw, hcells, -, -⟩ := LegalFrame.halves hg
  have hp2 : g.h.toNat / 2 = p := by omega
  have hq2 : g.w.toNat / 2 = q := by omega
  refine ⟨p * q, hcells, fun n V hV => ?_⟩
  have hn : n < 3 := views_length g ▸ (List.getElem?_eq_some_iff.1 hV).1
  have huv : ∀ a, a * g.w.toNat = 2 * (a * q) := fun a => by rw [hq]; ring
  refine ⟨hn, ?_⟩
  simp only [views, hp2, hq2] at hV
  -- Three views for each layout; each index is linear in the place r * cols + c.
  cases hl : g.layout <;> rw [hl] at hV <;> interval_cases n <;> cases hV <;>
    simp only [viewSize, viewStart, viewStride, lumaIndex, uIndex, vIndex, uvIndex, hhw, hq2, huv] <;>
    exact ⟨trivial, fun r c => by omega⟩

/-- Settles O40: the runs cover the frame's cells once each, and a place in a run is a row and a column. -/
theorem planeViewsPartitionTheBuffer : Obligations.PlaneViewsPartitionTheBuffer := by
  intro g hg
  refine ⟨fun n V r c hV hr hc => View.index_lt hg (List.mem_of_getElem? hV) hr hc, fun k hk => ?_⟩
  obtain ⟨m, hcells, hrun⟩ := views_run hg
  obtain ⟨n, j, hn, hj, hjk⟩ := viewRun_exists g.layout (hcells ▸ hk)
  obtain ⟨V, hV⟩ := views_getElem? g hn
  obtain ⟨-, hsize, hindex⟩ := hrun n V hV
  obtain ⟨r, c, hr, hc, rfl⟩ := rowMajor_exists (hsize ▸ hj)
  refine ⟨n, V, r, c, hV, hr, hc, (hindex r c).trans hjk, fun n' V' r' c' hV' hr' hc' hk' => ?_⟩
  obtain ⟨hn', hsize', hindex'⟩ := hrun n' V' hV'
  obtain ⟨rfl, hplace⟩ := viewRun_injective g.layout hn' hn (hsize' ▸ rowMajor_lt hr' hc') hj
    ((hindex' r' c').symm.trans (hk'.trans hjk.symm))
  obtain rfl : V' = V := Option.some.inj (hV'.symm.trans hV)
  exact ⟨rfl, rowMajor_injective hc' hc hplace⟩

/-! ## Crops (42_resampler.md R148) -/

/-- At a ROI that fits, every cell of a view's crop is a meaningful one. -/
theorem View.crop_index_lt {g : Geometry} (hg : g.Legal) {V : View} (hV : V ∈ views g) {r : Roi} (hr : r.Fits g) {i j : Nat}
    (hi : i < (V.rect r).h) (hj : j < (V.rect r).w) : V.index ((V.rect r).y + i) ((V.rect r).x + j) < g.cells := by
  obtain ⟨-, -, hrows, hcols⟩ := View.rect_inside hg hV hr
  exact View.index_lt hg hV (by omega) (by omega)

/-- Settles O42: the rectangle lies inside its view, so every cell of the crop holds a value. -/
theorem cropsLieInsideTheirPlanes : Obligations.CropsLieInsideTheirPlanes := by
  intro g cells r V hg hheld hr hV
  have hin : ∀ i j, i < (V.rect r).h → j < (V.rect r).w → V.index ((V.rect r).y + i) ((V.rect r).x + j) < cells.length :=
    fun i j hi hj => (View.crop_index_lt hg hV hr hi hj).trans_le hheld
  obtain ⟨hh, hw, hrows, hcols⟩ := View.rect_inside hg hV hr
  obtain ⟨hlen, hcell⟩ := crop_cells hin
  refine ⟨hh, hw, hrows, hcols, hlen, fun i j hi hj => ?_⟩
  have hget := List.getElem?_eq_getElem (hin i j hi hj)
  exact ⟨_, (hcell i j hi hj).trans hget, hget⟩

end Sys2Proof.Machine

/-! # Planes through a ZOOM

CUBIC keeps size and flat fields, and a crop depends on the cells of its rectangle alone; so a flat plane stays flat and the planes
are independent (42_resampler.md R144 to R150). -/

namespace Sys2Proof.Machine

/-- Settles O43: on a flat plane CUBIC is its value, repeated. -/
theorem cubicKeepsSizeAndFlatFields : Obligations.CubicKeepsSizeAndFlatFields := by
  intro p h w
  refine ⟨cubic_length p h w, fun v hne hv c hc => ?_⟩
  rw [cubic_flat hne hv] at hc
  exact List.eq_of_mem_replicate hc

/-- A cell of a crop stands at a place of its rectangle. -/
theorem mem_crop {cells : List Sample} {idx : Nat → Nat → Nat} {r : Rect} {v : Sample} (h : v ∈ (crop cells idx r).cells) :
    ∃ i j, i < r.h ∧ j < r.w ∧ cells[idx (r.y + i) (r.x + j)]? = some v := by
  obtain ⟨i, hi, hrow⟩ := List.mem_flatMap.1 h
  obtain ⟨j, hj, hcell⟩ := List.mem_filterMap.1 hrow
  exact ⟨i, j, List.mem_range.1 hi, List.mem_range.1 hj, hcell⟩

/-- A crop depends on the cells of its rectangle alone. -/
theorem crop_congr {cells cells' : List Sample} {idx : Nat → Nat → Nat} {r : Rect}
    (h : ∀ i j, i < r.h → j < r.w → cells'[idx (r.y + i) (r.x + j)]? = cells[idx (r.y + i) (r.x + j)]?) :
    crop cells' idx r = crop cells idx r := by
  simp only [crop]
  congr 1
  refine List.flatMap_congr fun i hi => List.filterMap_congr fun j hj => ?_
  exact h i j (List.mem_range.1 hi) (List.mem_range.1 hj)

/-- The crop of a view at a ROI that fits has cells. -/
theorem State.crop_ne_nil {s : State} (hl : s.inGeom.Legal) (hh : s.Held .inBuf) {V : View} (hV : V ∈ views s.inGeom) {r : Roi}
    (hr : r.Fits s.inGeom) : (crop s.inCells V.index (V.rect r)).cells ≠ [] := by
  obtain ⟨hrows, hcols, -, -⟩ := View.rect_inside hl hV hr
  obtain ⟨hlen, -⟩ := crop_cells (cells := s.inCells) (idx := V.index) (r := V.rect r)
    fun i j hi hj => (View.crop_index_lt hl hV hr hi hj).trans_le hh
  have hpos : 0 < (V.rect r).h * (V.rect r).w := Nat.mul_pos (by omega) (by omega)
  exact List.ne_nil_of_length_pos (hlen ▸ hpos)

/-- Settles O49: the crop of a flat plane is flat and not empty, so CUBIC keeps its value. -/
theorem flatPlanesStayFlat : Obligations.FlatPlanesStayFlat := by
  intro i propose s hi hv hl hh hr
  refine ⟨_, exec_of_roiOf_zoomed hi hv hr hh, fun V hV v hflat a c ha hc => ?_⟩
  have hcrop : ∀ u ∈ (crop s.inCells V.index (V.rect (propose s.roi))).cells, u = v := by
    intro u hu
    obtain ⟨-, -, hrows, hcols⟩ := View.rect_inside hl hV hr
    obtain ⟨a', c', ha', hc', hcell⟩ := mem_crop hu
    exact Option.some.inj (hcell.symm.trans (hflat _ _ (by omega) (by omega)))
  rw [State.zoomed_view hl hr hV ha hc, cubic_flat (State.crop_ne_nil hl hh hV hr) hcrop,
    List.getElem?_replicate_of_lt (rowMajor_lt ha hc)]

theorem exec_zoom_zoomed {s : State} (hv : s.status.inValid = true) (hr : s.roi.Fits s.inGeom) (hh : s.Held .inBuf) :
    exec .zoom s = .next (s.zoomed s.roi) :=
  exec_of_roiOf_zoomed (p := fun r => r) rfl hv hr hh

/-- Settles O50: each plane of OUT is CUBIC of a crop, and the two crops are equal. -/
theorem planesOfAZoomAreIndependent : Obligations.PlanesOfAZoomAreIndependent := by
  intro s s' hv hv' hl hgeom hh hh' hroi hr
  have hr' : s'.roi.Fits s'.inGeom := by rwa [hroi, hgeom]
  refine ⟨s.zoomed s.roi, s'.zoomed s'.roi, exec_zoom_zoomed hv hr hh, exec_zoom_zoomed hv' hr' hh',
    fun V hV hsame a c ha hc => ?_⟩
  rw [State.zoomed_view hl hr hV ha hc, State.zoomed_view (hgeom ▸ hl) hr' (hgeom ▸ hV) ha hc, hroi, crop_congr hsame]

end Sys2Proof.Machine

/-! # The full frame, and steps that keep the ROI

The inferences of 43_roi.md section 4. -/

namespace Sys2Proof.Machine

/-! ## The full frame (43_roi.md R171) -/

/-- The sides of a legal frame are positive as signed words. -/
theorem Geometry.Legal.sides_lt {g : Geometry} (hg : g.Legal) : g.h.toNat < 2 ^ 31 ∧ g.w.toNat < 2 ^ 31 := by
  obtain ⟨p, q, hp, hq, hp1, hq1, -, -, -, hcap⟩ := LegalFrame.halves hg
  have hcap31 := bufCap_lt
  have hple : p ≤ p * q := Nat.le_mul_of_pos_right p hq1
  have hqle : q ≤ p * q := Nat.le_mul_of_pos_left q hp1
  omega

/-- The ROI that is the whole of a frame. -/
def fullRoi (g : Geometry) : Roi := ⟨0, 0, g.w.toNat, g.h.toNat⟩

theorem State.roi_eq_fullRoi {s : State} (hg : s.inGeom.Legal) (hx : s.roiX = 0) (hy : s.roiY = 0)
    (hw : s.roiW = s.inGeom.w) (hh : s.roiH = s.inGeom.h) : s.roi = fullRoi s.inGeom := by
  obtain ⟨hhlt, hwlt⟩ := hg.sides_lt
  have hint (v : Word) (hv : v.toNat < 2 ^ 31) : v.toInt = v.toNat := BitVec.toInt_eq_toNat_of_lt (by omega)
  rw [State.roi, hx, hy, hw, hh, hint _ hhlt, hint _ hwlt]
  rfl

/-- A ROI ends before the last row and the last column, and the full frame does not. -/
theorem fullRoi_not_fits (g : Geometry) : ¬ (fullRoi g).Fits g := by
  rintro ⟨-, -, -, -, hw, -⟩
  simp [fullRoi] at hw

/-- 18 twentieths of an even side are more than 4 exactly from 6 on. -/
theorem proposeZin_fullRoi_fits_iff {g : Geometry} (hg : g.Legal) :
    (proposeZin (fullRoi g)).Fits g ↔ 6 ≤ g.w.toNat ∧ 6 ≤ g.h.toNat := by
  obtain ⟨h2, w2, heven, weven, -⟩ := hg
  have hdiv (n : Nat) : (n : Int).tdiv 20 = n / 20 := Int.tdiv_eq_ediv_of_nonneg (by omega)
  have hdiv18 (n : Nat) : ((n : Int) * 18).tdiv 20 = n * 18 / 20 := Int.tdiv_eq_ediv_of_nonneg (by omega)
  simp only [Roi.Fits, proposeZin, fullRoi, hdiv, hdiv18]
  omega

/-- Settles O47: ZOOM works at the full frame, ZIN at 18 twentieths of it. -/
theorem fullFrameIsNeverValid : Obligations.FullFrameIsNeverValid := by
  intro s hv hh hg hx hy hw hh'
  have hroi := State.roi_eq_fullRoi hg hx hy hw hh'
  refine ⟨invalidRoiIsRejected .zoom _ s rfl hv (hroi ▸ fullRoi_not_fits s.inGeom), ?_⟩
  rw [← proposeZin_fullRoi_fits_iff hg, ← hroi]
  by_cases hfits : (proposeZin s.roi).Fits s.inGeom
  · exact ⟨_, exec_of_roiOf_zoomed (i := .zin) rfl hv hfits hh, iff_of_true rfl hfits⟩
  · refine ⟨_, invalidRoiIsRejected .zin _ s rfl hv hfits, iff_of_false ?_ hfits⟩
    simp [State.rejected]

/-! ## A step that proposes the current ROI (43_roi.md R169) -/

/-- The meaningful cells of OUT after an accepted ZOOM or step are the resampled ones. -/
theorem State.zoomed_take {s : State} (hl : s.inGeom.Legal) (r : Roi) :
    (s.zoomed r).outCells.take s.inGeom.cells = resample (s.inCells.take s.inGeom.cells) s.inGeom r := by
  have htake := overlay_take (resample (s.inCells.take s.inGeom.cells) s.inGeom r) s.outCells
  rwa [resample_length hl] at htake

/-- Writing the current ROI back changes no register. -/
theorem State.zoomed_self (s : State) :
    s.zoomed s.roi = s.outFilled (resample (s.inCells.take s.inGeom.cells) s.inGeom s.roi) := by
  rw [State.zoomed, State.setRoi_self]

/-- Settles O48: the step works at the current ROI, so it does no more than fill OUT. -/
theorem stepThatProposesTheSameRoiKeepsIt : Obligations.StepThatProposesTheSameRoiKeepsIt := by
  intro i propose s hi hv hl hh hr hsame
  have hexec := exec_of_roiOf_zoomed hi hv (hsame.symm ▸ hr) hh
  have htake := State.zoomed_take hl s.roi
  rw [hsame, State.zoomed_self] at hexec
  rw [State.zoomed_self] at htake
  exact ⟨_, hexec, rfl, rfl, rfl, rfl, rfl, htake⟩

end Sys2Proof.Machine
